-- ==== Sys2Proof/Word.lean ====
section
/-! DEFINITION. The word types of the BCM frame engine: the 16-bit hardware word (rule R100), the byte of host
memory (R76), the 64-bit command word (R111), and the three 8-bit channels of a pixel (R111). -/

namespace Sys2Proof

/-- The 16-bit hardware word the encoder stores and the replay agent emits (R100). -/
abbrev Word := BitVec 16

/-- One byte of host memory, and one colour channel (R76, R111). -/
abbrev Byte := BitVec 8

/-- The command word the host presents on the command port (R111, R116). -/
abbrev CommandWord := BitVec 64

/-- The index of a frame buffer, and of the descriptor chain that reads it: NBUF = 2 (R8). -/
abbrev BufIdx := Fin 2

/-- The three channels of one pixel, uncorrected: CR, CG, CB of the command word (R111), or the three bytes of a
pixel of the caller's frame (R77). -/
structure Rgb where
  r : Byte
  g : Byte
  b : Byte
deriving DecidableEq, Repr, Inhabited

end Sys2Proof
end

