-- ==== Sys2Proof/Syntax.lean ====
section
/-! DEFINITION. The commands of the port: one constructor for each row of spec/opcode_table.json (R114), with the
operands of its format as R113 assembles them. -/

namespace Sys2Proof

/-- A command (R114). Coordinates are the zero-extended X and Y, so they are natural numbers; the percent of SETBRIGHT
is the signed value of VAL; the address of SETFRAMEBASE is VAL (R113). Ignored fields (R112) have no place here. -/
inductive Instr where
  /-- `NOP` (R348). -/
  | nop
  /-- `INIT` (R230). -/
  | init
  /-- `SHUTDOWN` (R240). -/
  | shutdown
  /-- `SETBRIGHT p` (R265). -/
  | setbright (percent : Int)
  /-- `GETBRIGHT` (R266). -/
  | getbright
  /-- `SETPIXEL x, y, r, g, b` (R150). -/
  | setpixel (x y : Nat) (colour : Rgb)
  /-- `FILL r, g, b` (R153). -/
  | fill (colour : Rgb)
  /-- `UPDATE`, BLK = 0 (R220). -/
  | update
  /-- `UPDATE.B`, BLK = 1 (R220). -/
  | updateB
  /-- `ENCODEFRAME` (R156). -/
  | encodeframe
  /-- `FUPDATE` (R226). -/
  | fupdate
  /-- `SETFRAMEBASE addr` (R290). -/
  | setframebase (addr : BitVec 32)
  /-- `FSETPIXEL x, y, r, g, b` (R292). -/
  | fsetpixel (x y : Nat) (colour : Rgb)
  /-- `FFILL r, g, b` (R294). -/
  | ffill (colour : Rgb)
  /-- `FCLEAR` (R296). -/
  | fclear
  /-- The reserved opcode 0xE (R115, R347). -/
  | reservedE
  /-- The reserved opcode 0xF (R115, R347). -/
  | reservedF
deriving DecidableEq, Repr

end Sys2Proof
end

