-- ==== Sys2Proof/WellFormed.lean ====
section
/-! DEFINITION. Which commands the port can carry: the operands that fit the fields of the command word (R111, R113). -/

namespace Sys2Proof

/-- A coordinate fits X and Y: unsigned 16 bits (R111). -/
def coordinateFits (n : Nat) : Bool := decide (n < 2 ^ 16)

/-- A percent fits VAL read with `sext_32` (R113). -/
def percentFits (p : Int) : Bool := decide (-(2 ^ 31) ≤ p) && decide (p < 2 ^ 31)

/-- Every operand fits its field of the command word (R111, R113). The channels and the address are of their fields'
widths by their types. -/
def Instr.wellFormed : Instr → Bool
  | .nop => true
  | .init => true
  | .shutdown => true
  | .setbright p => percentFits p
  | .getbright => true
  | .setpixel x y _ => coordinateFits x && coordinateFits y
  | .fill _ => true
  | .update => true
  | .updateB => true
  | .encodeframe => true
  | .fupdate => true
  | .setframebase _ => true
  | .fsetpixel x y _ => coordinateFits x && coordinateFits y
  | .ffill _ => true
  | .fclear => true
  | .reservedE => true
  | .reservedF => true

end Sys2Proof
end

