-- ==== Sys2Proof/Decode.lean ====
section
/-! DEFINITION. The command word's fields and opcode map (R111 to R116), the decoder, and the assembler's encoding
(R117). Every 64-bit word is a command (R115); what is not one 64-bit word is rejected by name (R116). -/

namespace Sys2Proof

/-- `OPC`, bits 63..60 (R111). -/
def fieldOpc (w : CommandWord) : BitVec 4 := w.extractLsb' 60 4

/-- `BLK` = `FLG[0]`, bit 56 (R111, R113). -/
def fieldBlk (w : CommandWord) : Bool := w.getLsbD 56

/-- `X`, bits 55..40, zero-extended (R111, R113). -/
def fieldX (w : CommandWord) : Nat := (w.extractLsb' 40 16).toNat

/-- `Y`, bits 39..24, zero-extended (R111, R113). -/
def fieldY (w : CommandWord) : Nat := (w.extractLsb' 24 16).toNat

/-- `CR`, `CG`, `CB`, bits 23..16, 15..8 and 7..0 (R111). -/
def fieldRgb (w : CommandWord) : Rgb := ⟨w.extractLsb' 16 8, w.extractLsb' 8 8, w.extractLsb' 0 8⟩

/-- `VAL`, bits 31..0 (R111). -/
def fieldVal (w : CommandWord) : BitVec 32 := w.extractLsb' 0 32

/-- The command a word stands for (R114). It is total: every value of OPC is listed, and a field that the format does
not read is ignored (R112, R115). -/
def decode (w : CommandWord) : Instr :=
  match (fieldOpc w).toNat with
  | 0x0 => .nop
  | 0x1 => .init
  | 0x2 => .shutdown
  | 0x3 => .setbright (fieldVal w).toInt
  | 0x4 => .getbright
  | 0x5 => .setpixel (fieldX w) (fieldY w) (fieldRgb w)
  | 0x6 => .fill (fieldRgb w)
  | 0x7 => if fieldBlk w then .updateB else .update
  | 0x8 => .encodeframe
  | 0x9 => .fupdate
  | 0xA => .setframebase (fieldVal w)
  | 0xB => .fsetpixel (fieldX w) (fieldY w) (fieldRgb w)
  | 0xC => .ffill (fieldRgb w)
  | 0xD => .fclear
  | 0xE => .reservedE
  | _ => .reservedF

/-- Why something presented as a command is none. -/
inductive DecodeError where
  /-- It is not one 64-bit word: every command word is exactly 64 bits long (R116). -/
  | notOneWord
deriving DecidableEq, Repr

/-- The command in `nbits` bits whose value is `w`, the bits from `nbits` up to the word's width being 0; more than 64
bits are no command word (R116). The port takes a whole word, so there is no byte order (log entry 7). -/
def decodeBits (nbits w : Nat) : Except DecodeError Instr :=
  if nbits ≤ 64 then .ok (decode (BitVec.ofNat 64 (w % 2 ^ nbits))) else .error .notOneWord

/-- The host's name for `decodeBits`: bit 0 is the word's least significant bit. -/
def decodeTableWord (nbits w : Nat) : Option Instr :=
  match decodeBits nbits w with
  | .ok i => some i
  | .error _ => none

/-- The assembled word of format N: `OPC` and 60 zero bits (R117). -/
def wordN (opc : BitVec 4) : CommandWord := opc ++ 0#60

/-- The assembled word of UPDATE and UPDATE.B: `OPC`, three zero bits, BLK, 56 zero bits (R117). -/
def wordU (opc : BitVec 4) (blk : Bool) : CommandWord := opc ++ 0#3 ++ BitVec.ofBool blk ++ 0#56

/-- The assembled word of format P: `OPC`, `FLG` = 0, X, Y, CR, CG, CB (R117). -/
def wordP (opc : BitVec 4) (x y : Nat) (c : Rgb) : CommandWord :=
  opc ++ 0#4 ++ BitVec.ofNat 16 x ++ BitVec.ofNat 16 y ++ c.r ++ c.g ++ c.b

/-- The assembled word of format C: `OPC`, 36 zero bits, CR, CG, CB (R117). -/
def wordC (opc : BitVec 4) (c : Rgb) : CommandWord := opc ++ 0#36 ++ c.r ++ c.g ++ c.b

/-- The assembled word of format V: `OPC`, 28 zero bits, VAL (R117). -/
def wordV (opc : BitVec 4) (val : BitVec 32) : CommandWord := opc ++ 0#28 ++ val

/-- The word the assembler makes of a command (R114, R117). -/
def encode : Instr → CommandWord
  | .nop => wordN 0x0#4
  | .init => wordN 0x1#4
  | .shutdown => wordN 0x2#4
  | .setbright p => wordV 0x3#4 (BitVec.ofInt 32 p)
  | .getbright => wordN 0x4#4
  | .setpixel x y c => wordP 0x5#4 x y c
  | .fill c => wordC 0x6#4 c
  | .update => wordU 0x7#4 false
  | .updateB => wordU 0x7#4 true
  | .encodeframe => wordN 0x8#4
  | .fupdate => wordN 0x9#4
  | .setframebase a => wordV 0xA#4 a
  | .fsetpixel x y c => wordP 0xB#4 x y c
  | .ffill c => wordC 0xC#4 c
  | .fclear => wordN 0xD#4
  | .reservedE => wordN 0xE#4
  | .reservedF => wordN 0xF#4

end Sys2Proof
end

