-- ==== Sys2Proof/Config.lean ====
section
/-! DEFINITION. What an implementation or its environment fixes and the spec leaves OPEN: the configuration of rule
R31, the draws of INIT (R10), and the inputs that decide whose turn it is (R6, R79). The three constants without a
body at the end are the model's free values (log entries 1, 2 and 3). -/

namespace Sys2Proof

/-- `CORR_MODE` (R11). -/
inductive CorrMode where
  | none
  | strict
  | modified
deriving DecidableEq, Repr, Inhabited

/-- `LAYOUT` (R12): the bit position of each named signal of the hardware word. The spec names the signals and
leaves the positions OPEN; whether they are distinct positions of a 16-bit word is checked by INIT (R344, row 9). -/
structure Layout where
  r1 : Nat
  g1 : Nat
  b1 : Nat
  r2 : Nat
  g2 : Nat
  b2 : Nat
  lat : Nat
  oe : Nat
  a : Nat
  b : Nat
  c : Nat
  d : Nat
  e : Nat
deriving DecidableEq, Repr, Inhabited

/-- A run of host addresses, `base` to `base + size - 1`: one part of `HOST_MEM` (R76; log entry 6). -/
structure Region where
  base : Nat
  size : Nat
deriving DecidableEq, Repr, Inhabited

/-- The configuration of R31, but for `DEPTH` and `NBUF`, which the spec fixes: the constants `depth` and `nbuf` of
Machine/Parameters.lean (R7, R8). The four parameters whose lower bound the spec checks (R344, rows 6 and 10) are
integers, so that the check says something (log entry 14). -/
structure Config where
  /-- `W`, the width in columns (R7). -/
  w : Nat
  /-- `H`, the height in pixel rows (R7). -/
  h : Nat
  /-- `RIP`, the rows in parallel (R7). -/
  rip : Nat
  /-- `LATCH_NS` (R9, R189). -/
  latchNs : Nat
  /-- `DESC_SIZE`, in bytes (R9). -/
  descSize : Nat
  /-- `DESC_MAX_BYTES` (R13, R192). -/
  descMaxBytes : Nat
  /-- `MIN_REFRESH_HZ` (R9). -/
  minRefreshHz : Int
  /-- `RESERVED_BYTES` (R9). -/
  reservedBytes : Int
  /-- `CORR_MODE` (R11). -/
  corrMode : CorrMode
  /-- `GAMMA` (R11, R260). -/
  gamma : Vector Byte 256
  /-- `LAYOUT` (R12). -/
  layout : Layout
  /-- `PREV_ROW0` (R13, R143). -/
  prevRow0 : Int
  /-- `BRIGHT_INIT` (R13). -/
  brightInit : Int
  /-- `HOST_MEM` (R13, R76). -/
  hostMem : List Region
  /-- Host memory's content at power-on, which R382 calls a parameter of the run: the listed bytes, and 0 at every
  address not listed. Any content of the 32-bit space can be written so (log entry 5). -/
  hostMemInit : List Host.Cell
deriving DecidableEq, Repr, Inhabited

/-- The environment inputs one INIT draws (R10): the free memory and the outcome of each allocation and of `setup`. -/
structure InitDraw where
  /-- `LARGEST_FREE`, in bytes. -/
  largestFree : Nat
  /-- `TOTAL_FREE`, in bytes. -/
  totalFree : Nat
  allocFs0 : Bool
  allocFs1 : Bool
  allocDs0 : Bool
  allocDs1 : Bool
  allocSignal : Bool
  setupOk : Bool
deriving DecidableEq, Repr, Inhabited

/-- What happens next: one choice of the interleaving (R79), or power-on reset. -/
inductive Turn where
  /-- The host presents this command word on the port (R110). -/
  | command (w : CommandWord)
  /-- The host agent's wait step (R224). -/
  | wait
  /-- The replay agent's word step (R313). -/
  | replay
  /-- Power-on reset (R380). -/
  | powerOn
deriving DecidableEq, Repr, Inhabited

/-- The board's configuration: OPEN in the spec, so without a body here (log entry 1). -/
opaque Config.board : Config

/-- The turns that come when none is queued: any interleaving and any commands (log entry 2). -/
opaque Config.freeTurn : Nat → Turn

/-- The draws of INIT that come when none is queued: any outcome (log entry 3). -/
opaque Config.freeDraw : Nat → InitDraw

end Sys2Proof
end

