-- ==== Sys2Proof/Machine/State.lean ====
section
/-! DEFINITION. The state of the frame engine as plain data: every register and store of 10_state.md (R30 to R48), host
memory (R76), and the model's own fields (the configuration, the inputs still to come). Its value after power-on
reset (R50, R380). -/

namespace Sys2Proof.Machine

/-- `PHASE` (R41). -/
inductive Phase where
  /-- No command is in progress. -/
  | idle
  /-- A blocking UPDATE waits for DONE. -/
  | waitU
  /-- FUPDATE waits for DONE before it encodes. -/
  | waitF
deriving DecidableEq, Repr, Inhabited

/-- A descriptor (R120). `next` is not stored: it is the following descriptor of the chain when `eof` is false, and
descriptor 0 of chain LINK[c] when it is true, and is computed where it is used (log entry 8). -/
structure Descriptor where
  /-- The frame buffer it reads. -/
  buf : BufIdx
  /-- The word index in that buffer of its first word. -/
  off : Nat
  /-- Its length in bytes. -/
  len : Nat
  /-- The end-of-chain mark (R121). -/
  eof : Bool
deriving DecidableEq, Repr, Inhabited

/-- `FS`, the two frame buffers, each a list of words by word index (R33, R71). -/
structure FrameStore where
  buf0 : List Word
  buf1 : List Word
deriving DecidableEq, Repr, Inhabited

/-- `DS`, the two descriptor chains (R34, R75). -/
structure DescStore where
  chain0 : List Descriptor
  chain1 : List Descriptor
deriving DecidableEq, Repr, Inhabited

/-- Where the model stops because a step would touch what does not exist. The spec's own faults are bits of the
register FAULT and ordinary next states (R346); these are none of them. No state a run reaches raises one (R233,
R352; log entry 10), and stopping is safe. -/
inductive Fault where
  /-- A word of the frame store that does not exist: FS is absent or the index is outside the buffer. Raised by
  SETPIXEL, FILL, ENCODEFRAME, FUPDATE's second part and the replay agent. Safe. -/
  | frameStoreAccess
  /-- A descriptor that does not exist: DS is absent or DPOS is outside the chain. Raised by the replay agent. Safe. -/
  | descriptorAccess
  /-- A host address outside HOST_MEM (R76). Raised by FUPDATE's second part, should the frame have left HOST_MEM
  during the wait, which no step can bring about. Safe. -/
  | hostMemoryAccess
deriving DecidableEq, Repr

/-- Why a command has no meaning in the model. -/
inductive Refusal where
  /-- The command is not modelled yet. No arm of `exec` answers so: every command has its meaning. Safe. -/
  | notModelled (mnemonic : String)
deriving DecidableEq, Repr

/-- The machine's state. The fields from `live` to `mem` are the spec's, each with its rule; `cfg` and the fields
after `mem` are the model's own (log entries 1, 2, 3). -/
structure State where
  /-- The configuration (R31): no step changes it. -/
  cfg : Config
  /-- `LIVE` (R30). -/
  live : Bool
  /-- `T`, the transition bit (R32). -/
  t : BitVec 3
  /-- `FS`, absent unless LIVE (R33). -/
  fs : Option FrameStore
  /-- `DS`, absent unless LIVE (R34). -/
  ds : Option DescStore
  /-- `LINK[0]` (R35). -/
  link0 : BufIdx
  /-- `LINK[1]` (R35). -/
  link1 : BufIdx
  /-- `WIDX`, the write target (R36). -/
  widx : BufIdx
  /-- `DMA_RUN` (R37). -/
  dmaRun : Bool
  /-- `CUR`, the chain being replayed (R37). -/
  cur : BufIdx
  /-- `DPOS`, the descriptor being replayed (R37). -/
  dpos : BitVec 16
  /-- `WPOS`, the next word of that descriptor (R37). -/
  wpos : BitVec 16
  /-- `PERCENT` (R38). -/
  percent : BitVec 7
  /-- `DUTY` (R39). -/
  duty : BitVec 16
  /-- `DONE`, the single-slot completion signal (R40). -/
  done : Bool
  /-- `PHASE` (R41). -/
  phase : Phase
  /-- `FAULT`, five sticky bits (R42). -/
  fault : BitVec 5
  /-- `HAZARD.TEAR` (R43). -/
  hazard : Bool
  /-- `CODE` (R44). -/
  code : BitVec 4
  /-- `RESULT` (R45). -/
  result : BitVec 32
  /-- `FRAME_BASE` (R46). -/
  frameBase : BitVec 32
  /-- `OUT`, the words emitted, in emission order (R48). -/
  out : List Word
  /-- Host memory (R76): the bytes that differ from the power-on content, addresses strictly rising. -/
  mem : List Host.Cell
  /-- The turns to come, the next one first; past the end `Config.freeTurn` decides (log entry 2). -/
  turns : List Turn
  /-- How many turns `Config.freeTurn` has decided. -/
  turnCount : Nat
  /-- The draws the next INITs will find, the next one first; past the end `Config.freeDraw` decides (log entry 3). -/
  draws : List InitDraw
  /-- How many draws `Config.freeDraw` has decided. -/
  drawCount : Nat
deriving DecidableEq, Repr

/-- What a step and a meaning answer. -/
abbrev Result := Host.Outcome State Fault Refusal

/-- The state after power-on reset (R50, R380). Every register's value is the spec's. The configuration is the
uninterpreted `Config.board`, host memory holds its power-on content (R382), and no input is queued (log entries 1, 2,
3, 5, 17). -/
def State.reset : State where
  cfg := Config.board
  live := false
  t := 0
  fs := none
  ds := none
  link0 := 0
  link1 := 0
  widx := 0
  dmaRun := false
  cur := 0
  dpos := 0
  wpos := 0
  percent := 0
  duty := 0
  done := false
  phase := .idle
  fault := 0
  hazard := false
  code := 0
  result := 0
  frameBase := 0
  out := []
  mem := []
  turns := []
  turnCount := 0
  draws := []
  drawCount := 0

end Sys2Proof.Machine
end

