-- ==== Sys2Proof/Machine/Parameters.lean ====
section
/-! DEFINITION. What the configuration determines: the number of rows (R7), the sizes (R72, R77), the gamma lookup
(R260), host memory's extent and power-on content (R76, R382), and the configuration check of INIT (R344). -/

namespace Sys2Proof.Machine

/-- `NBUF`, the number of frame buffers (R8). -/
def nbuf : Nat := 2

/-- `DEPTH`, the colour depth in bits: 8 in every instance of the block (R7). -/
def depth : Nat := 8

/-- `R = H / RIP`, the scan rows (R7). -/
def rows (c : Config) : Nat := c.h / c.rip

/-- The words of one frame buffer, `R * DEPTH * W` (R71). -/
def bufferWords (c : Config) : Nat := rows c * depth * c.w

/-- The bytes of the caller's frame, `W * H * 3` (R77). -/
def frameBytes (c : Config) : Nat := c.w * c.h * 3

/-- `GAMMA[v]` (R260). -/
def gammaLookup (c : Config) (v : Byte) : Byte := c.gamma[v.toNat]'v.isLt

/-- The laws of the table that R260 states: it does not decrease, `GAMMA[0] = 0` and `GAMMA[255] = 255`. Comparing
neighbours is enough for the first (`gamma_le_of_le` in Laws). -/
def gammaLawful (c : Config) : Bool :=
  ((List.range 255).all fun v =>
      decide ((gammaLookup c (BitVec.ofNat 8 v)).toNat ≤ (gammaLookup c (BitVec.ofNat 8 (v + 1))).toNat)) &&
    decide (gammaLookup c 0 = 0) && decide (gammaLookup c 255 = 255)

/-- The bit positions of the 13 signals (R100, R344 row 9). -/
def layoutPositions (l : Layout) : List Nat :=
  [l.r1, l.g1, l.b1, l.r2, l.g2, l.b2, l.lat, l.oe, l.a, l.b, l.c, l.d, l.e]

/-- `LAYOUT` gives 13 distinct bit positions in 0 .. 15 (R344, row 9). -/
def layoutLawful (l : Layout) : Bool :=
  (layoutPositions l).all (fun p => decide (p < 16)) && decide (layoutPositions l).Nodup

/-- `configOK`, row by row (R344). Row 1 holds in every instance (R7), and row 8's first half by the type of
`CORR_MODE`. -/
def configOK (c : Config) : Bool :=
  decide (depth = 8) &&
  decide (c.rip = 2) &&
  (decide (c.h = c.rip * rows c) && decide (1 ≤ rows c) && decide (rows c ≤ 32)) &&
  (decide (c.w % 2 = 0) && decide (2 ≤ c.w) && decide (c.w ≤ 4096)) &&
  (decide (1 ≤ c.latchNs) && decide (1 ≤ c.descSize)) &&
  (decide (0 ≤ c.minRefreshHz) && decide (0 ≤ c.reservedBytes)) &&
  decide (2 * c.w ≤ c.descMaxBytes) &&
  gammaLawful c &&
  layoutLawful c.layout &&
  (decide (0 ≤ c.prevRow0) && decide (c.prevRow0 ≤ 31) &&
    decide (0 ≤ c.brightInit) && decide (c.brightInit ≤ 100))

/-- Address `a` is in `HOST_MEM`, a set of 32-bit addresses (R76). -/
def inHostMem (c : Config) (a : Nat) : Bool :=
  decide (a < 2 ^ 32) && c.hostMem.any fun r => decide (r.base ≤ a) && decide (a < r.base + r.size)

/-- The byte that host memory holds at address `a` at power-on (R382): what an address not listed in the state's
memory reads as. -/
def hostInit (c : Config) (a : Nat) : Byte :=
  match c.hostMemInit.find? fun cell => cell.1 == a with
  | some cell => cell.2
  | none => 0

end Sys2Proof.Machine
end

