-- ==== Sys2Proof/Machine/Flags.lean ====
section
/-! DEFINITION. The flags of the block: the bits of FAULT (R42, R346), the ownership set HWOWN (R49), and the tear
record HAZARD.TEAR (R392). -/

namespace Sys2Proof.Machine

/-- The five faults of R346. -/
inductive FaultBit where
  /-- `F_ILLEGAL`: a reserved opcode. -/
  | illegal
  /-- `F_NOT_INIT`: a command that needs LIVE = 1. -/
  | notInit
  /-- `F_REINIT`: INIT while LIVE = 1. -/
  | reinit
  /-- `F_CONCURRENT`: a command word during a wait. -/
  | concurrent
  /-- `F_BAD_ADDR`: the caller's frame is not inside HOST_MEM. -/
  | badAddr
deriving DecidableEq, Repr

/-- The bit of FAULT that each fault sets (R42, R346). -/
def faultMask : FaultBit → BitVec 5
  | .illegal => 0b00001#5
  | .notInit => 0b00010#5
  | .reinit => 0b00100#5
  | .concurrent => 0b01000#5
  | .badAddr => 0b10000#5

/-- `LINK[c]` (R35). -/
def linkOf (s : State) (c : BufIdx) : BufIdx := if c = 0 then s.link0 else s.link1

/-- `b ∈ HWOWN`: the replay agent owns buffer `b` (R49). -/
def hwOwns (s : State) (b : BufIdx) : Bool :=
  s.dmaRun && (decide (b = s.cur) || decide (b = linkOf s s.cur))

/-- The tear record of a step that writes a word of the write target (R392): TEAR becomes 1 when the replay agent owns
that buffer, and is sticky (R43). -/
def recordTear (s : State) : State := { s with hazard := s.hazard || hwOwns s s.widx }

end Sys2Proof.Machine
end

