-- ==== Sys2Proof/Machine/Ops.lean ====
section
/-! DEFINITION. The operations the commands share: raising a fault (R346), host memory (R76), the frame store and the
descriptor store (R71, R75), the flip (R222), and power-on reset (R380). -/

namespace Sys2Proof.Machine

/-- `raise Fault(F)` (R346): sets the one bit and ends the command with no other effect. The block has no trap, vector
or handler, and nothing returns from a fault (R357). -/
def raiseFault (f : FaultBit) (s : State) : State := { s with fault := s.fault ||| faultMask f }

/-- The `LIVE` test that comes first in every command that needs LIVE = 1 (R346, R350). -/
def whenLive (s : State) (body : Result) : Result :=
  if s.live then body else .next (raiseFault .notInit s)

/-! Host memory: (address, byte) cells with addresses strictly rising and none equal to the power-on content `d`. -/

/-- The canonical form of a memory over the power-on content `d`. -/
def Memory.wf (d : Nat → Byte) : List Host.Cell → Bool
  | [] => true
  | (a, v) :: m =>
    decide (v ≠ d a) && (m.all fun cell => decide (a < cell.1)) && Memory.wf d m

/-- The byte at address `a`: the listed one, else the power-on content. -/
def Memory.read (d : Nat → Byte) : List Host.Cell → Nat → Byte
  | [], a => d a
  | (b, u) :: m, a => if a = b then u else Memory.read d m a

/-- Writing byte `v` at address `a`, keeping the canonical form. -/
def Memory.write (d : Nat → Byte) : List Host.Cell → Nat → Byte → List Host.Cell
  | [], a, v => if v = d a then [] else [(a, v)]
  | (b, u) :: m, a, v =>
    if a < b then (if v = d a then (b, u) :: m else (a, v) :: (b, u) :: m)
    else if a = b then (if v = d a then m else (a, v) :: m)
    else (b, u) :: Memory.write d m a v

/-- `MemRead(a, 1)` (R16, R76). -/
def memRead (s : State) (a : Nat) : Byte := Memory.read (hostInit s.cfg) s.mem a

/-- `MemWrite(a, 1, v)` (R16, R76). -/
def memWrite (a : Nat) (v : Byte) (s : State) : State :=
  { s with mem := Memory.write (hostInit s.cfg) s.mem a v }

/-- The state's host memory is in its canonical form. -/
def memWf (s : State) : Bool := Memory.wf (hostInit s.cfg) s.mem

/-- `frameOK` (44_frame_ops.md, R156): every byte of the caller's frame, `FRAME_BASE` to `FRAME_BASE + W*H*3 - 1`, is
in HOST_MEM. Addresses do not wrap, and an empty frame is inside (R345). -/
def frameOK (s : State) : Bool :=
  (List.range (frameBytes s.cfg)).all fun k => inHostMem s.cfg (s.frameBase.toNat + k)

/-- The test that precedes every access to the caller's frame (R346). -/
def whenFrameOK (s : State) (body : Result) : Result :=
  if frameOK s then body else .next (raiseFault .badAddr s)

/-- `fbyte(x, y, c)`: the address of channel `c` of pixel `(x, y)` of the caller's frame (R77). -/
def fbyte (s : State) (x y c : Nat) : Nat := s.frameBase.toNat + (y * s.cfg.w + x) * 3 + c

/-- Pixel `(x, y)` of the caller's frame: red, green and blue at offsets 0, 1, 2 (R77). -/
def callerPixel (s : State) (x y : Nat) : Rgb :=
  ⟨memRead s (fbyte s x y 0), memRead s (fbyte s x y 1), memRead s (fbyte s x y 2)⟩

/-- Writing pixel `(x, y)` of the caller's frame (R292, R294). -/
def writeCallerPixel (x y : Nat) (p : Rgb) (s : State) : State :=
  memWrite (fbyte s x y 2) p.b (memWrite (fbyte s x y 1) p.g (memWrite (fbyte s x y 0) p.r s))

/-! The frame store and the descriptor store. -/

/-- Buffer `b` of the frame store (R33). -/
def bufferOf (f : FrameStore) (b : BufIdx) : List Word := if b = 0 then f.buf0 else f.buf1

/-- The frame store with buffer `b` replaced. -/
def setBuffer (f : FrameStore) (b : BufIdx) (ws : List Word) : FrameStore :=
  if b = 0 then { f with buf0 := ws } else { f with buf1 := ws }

/-- `FS[b][i]`, when that word exists (R16, R71). -/
def fsRead (f : FrameStore) (b : BufIdx) (i : Nat) : Option Word := (bufferOf f b)[i]?

/-- `FS[b][i] <- v` for a word that exists (R16, R71). -/
def fsWrite (f : FrameStore) (b : BufIdx) (i : Nat) (v : Word) : FrameStore :=
  setBuffer f b ((bufferOf f b).set i v)

/-- Chain `c` of the descriptor store (R34). -/
def chainOf (d : DescStore) (c : BufIdx) : List Descriptor := if c = 0 then d.chain0 else d.chain1

/-- `flipToBuffer(b)`: both chains' last descriptors now lead to chain `b` (R222). -/
def flipToBuffer (b : BufIdx) (s : State) : State := { s with link0 := b, link1 := b }

/-- What a flip does as a whole (R220, R223, R226): flip to the write target, discard a stale completion, and move the
write target to `(WIDX + 1) mod NBUF`. -/
def flipAndAdvance (s : State) : State :=
  { flipToBuffer s.widx s with done := false, widx := s.widx + 1 }

/-- Power-on reset of a machine in use (R380): every register takes its value of R50, FS and DS are absent. Host memory
is not part of the block and keeps its content (R382); the configuration and the inputs to come are not state of
the block (log entry 11). -/
def powerOn (s : State) : State :=
  { State.reset with
    cfg := s.cfg, mem := s.mem
    turns := s.turns, turnCount := s.turnCount, draws := s.draws, drawCount := s.drawCount }

end Sys2Proof.Machine
end

