-- ==== Sys2Proof/Machine/Operands.lean ====
section
/-! DEFINITION. How operands are used: panel halves and slots (R140, R147, R71), channel correction (R148, R261), and
the percent and its duty (R262 to R265). -/

namespace Sys2Proof.Machine

/-- A panel half (R140). -/
inductive Half where
  | one
  | two
deriving DecidableEq, Repr

/-- The half and the scan row of pixel row `y` (R140). -/
def pixelRow (c : Config) (y : Nat) : Half × Nat :=
  if y < rows c then (.one, y) else (.two, y - rows c)

/-- `x >= W or y >= H`: the coordinates lie outside the panel (R151, R343). -/
def outOfRange (c : Config) (x y : Nat) : Bool := decide (c.w ≤ x) || decide (c.h ≤ y)

/-- `slot(x) = x XOR 1`: where a bitplane stores column `x` (R147). -/
def slot (x : Nat) : Nat := x ^^^ 1

/-- `widx(r, j, s)`: the word index of row `r`, bitplane `j`, slot `s` (R71). -/
def widx (c : Config) (r j s : Nat) : Nat := (r * depth + j) * c.w + s

/-- `corrP(v)`: the correction of a pixel's channel (R148, R261). -/
def corrP (c : Config) (v : Byte) : Byte :=
  match c.corrMode with
  | .none => v
  | .strict => gammaLookup c v
  | .modified => gammaLookup c v

/-- The three corrected channels of a pixel (R148). -/
def corrRgb (c : Config) (p : Rgb) : Rgb := ⟨corrP c p.r, corrP c p.g, corrP c p.b⟩

/-- `clamp(p, 0, 100)` (R15, R265). -/
def clampPercent (p : Int) : Nat := (min 100 (max 0 p)).toNat

/-- `lin(p)`: the linear duty, rounded half up (R262). -/
def lin (c : Config) (p : Nat) : Nat := (p * c.w + 50) / 100

/-- `corrB(d)`: the duty scaled to the table's range, looked up and scaled back (R263). The index is at most 255 for
`d ≤ W` (log entry 20). -/
def corrB (c : Config) (d : Nat) : Nat :=
  ((gammaLookup c (BitVec.ofNat 8 ((d * 255 + c.w / 2) / c.w))).toNat * c.w + 127) / 255

/-- `dutyOf(p)` (R264). -/
def dutyOf (c : Config) (p : Nat) : Nat :=
  match c.corrMode with
  | .none => lin c p
  | .strict => corrB c (lin c p)
  | .modified => if lin c p > 0 then max 1 (corrB c (lin c p)) else 0

/-- `PERCENT <- p; DUTY <- dutyOf(p)` (R230 step 8, R265). -/
def setPercent (p : Nat) (s : State) : State :=
  { s with percent := BitVec.ofNat 7 p, duty := BitVec.ofNat 16 (dutyOf s.cfg p) }

end Sys2Proof.Machine
end

