-- ==== Sys2Proof/Machine/Brightness.lean ====
section
/-! DEFINITION. The brightness commands (43_brightness_gamma.md): SETBRIGHT and GETBRIGHT. -/

namespace Sys2Proof.Machine

/-- `SETBRIGHT p` (R265): stores the clamped percent and its duty, and returns the previous percent. -/
def execSetbright (percent : Int) (s : State) : Result :=
  whenLive s (.next { setPercent (clampPercent percent) s with result := s.percent.zeroExtend 32 })

/-- `GETBRIGHT` (R266): returns the percent, never the duty. -/
def execGetbright (s : State) : Result :=
  whenLive s (.next { s with result := s.percent.zeroExtend 32 })

end Sys2Proof.Machine
end

