-- ==== Sys2Proof/Machine/Compose.lean ====
section
/-! DEFINITION. Composing hardware words (R100 to R104, R141 to R146) and rendering a whole buffer (R153, R156). -/

namespace Sys2Proof.Machine

/-- The word with the one bit at position `p` set. -/
def signalBit (p : Nat) : Word := BitVec.twoPow 16 p

/-- The word with the bit at position `p` set when `on` holds. -/
def signalWhen (on : Bool) (p : Nat) : Word := if on then signalBit p else 0

/-- `ADDRBITS(a)`: the row address `a mod 32` on the signals A (least significant) to E (R103, R141). -/
def addrBits (l : Layout) (a : Int) : Word :=
  let n := (a % 32).toNat
  signalWhen (n.testBit 0) l.a ||| signalWhen (n.testBit 1) l.b ||| signalWhen (n.testBit 2) l.c |||
    signalWhen (n.testBit 3) l.d ||| signalWhen (n.testBit 4) l.e

/-- `C1MASK` (R104). -/
def c1Mask (l : Layout) : Word := signalBit l.r1 ||| signalBit l.g1 ||| signalBit l.b1

/-- `C2MASK` (R104). -/
def c2Mask (l : Layout) : Word := signalBit l.r2 ||| signalBit l.g2 ||| signalBit l.b2

/-- `rgb1(r, g, b, j)`: bit `j` of the channels on half 1's signals (R104). -/
def rgb1 (l : Layout) (p : Rgb) (j : Nat) : Word :=
  signalWhen (p.r.getLsbD j) l.r1 ||| signalWhen (p.g.getLsbD j) l.g1 ||| signalWhen (p.b.getLsbD j) l.b1

/-- `rgb2(r, g, b, j)`: bit `j` of the channels on half 2's signals (R104). -/
def rgb2 (l : Layout) (p : Rgb) (j : Nat) : Word :=
  signalWhen (p.r.getLsbD j) l.r2 ||| signalWhen (p.g.getLsbD j) l.g2 ||| signalWhen (p.b.getLsbD j) l.b2

/-- `prevRow(r)` (R143). -/
def prevRow (c : Config) (r : Nat) : Int := if r = 0 then c.prevRow0 else (r : Int) - 1

/-- `rowaddr(r, j)`: bitplane 0 carries the previous row's address (R142). -/
def rowAddr (c : Config) (r j : Nat) : Int := if j = 0 then prevRow c r else (r : Int)

/-- `oeCoarse(j, x)`: brightness blanking on bitplane 0 and above the transition bit (R144). -/
def oeCoarse (t duty j x : Nat) : Bool := (decide (j = 0) || decide (t < j)) && decide (duty ≤ x)

/-- `oeFine(j, x)`: brightness blanking on bitplanes 1 to `T`, the threshold halved `T - j + 1` times (R145). -/
def oeFine (t duty j x : Nat) : Bool :=
  (decide (1 ≤ j) && decide (j ≤ t)) && decide (duty >>> (t - j + 1) ≤ x)

/-- The OE bit of column `x` of bitplane `j`: brightness, row transition or latch blanking (R141, R146). -/
def oeBit (c : Config) (t duty j x : Nat) : Bool :=
  oeCoarse t duty j x || oeFine t duty j x || decide (x = 0) || decide (x = c.w - 1)

/-- `base(r, j, x)` for transition bit `t` and duty `duty`: address, OE and LAT, with every colour bit and every
unused bit 0 (R102, R141). -/
def baseWord (c : Config) (t duty r j x : Nat) : Word :=
  addrBits c.layout (rowAddr c r j) ||| signalWhen (oeBit c t duty j x) c.layout.oe |||
    signalWhen (decide (x = c.w - 1)) c.layout.lat

/-- The word of a column whose two halves show `top` and `bot`, uncorrected (R153, R156). -/
def pixelWord (c : Config) (t duty : Nat) (top bot : Rgb) (r j x : Nat) : Word :=
  baseWord c t duty r j x ||| rgb1 c.layout (corrRgb c top) j ||| rgb2 c.layout (corrRgb c bot) j

/-- The word SETPIXEL stores for bitplane `j`: the pixel's half is new, the other half's colour bits are those of the
old word (R150). -/
def mergedWord (c : Config) (t duty : Nat) (half : Half) (p : Rgb) (r j x : Nat) (old : Word) : Word :=
  match half with
  | .one => baseWord c t duty r j x ||| rgb1 c.layout (corrRgb c p) j ||| (old &&& c2Mask c.layout)
  | .two => baseWord c t duty r j x ||| rgb2 c.layout (corrRgb c p) j ||| (old &&& c1Mask c.layout)

/-- The contents of a whole buffer where pixel `(x, y)` shows `pixel x y` (the loops of R153 and R156). The word at
index `i` belongs to row `i / (DEPTH * W)`, bitplane `i / W mod DEPTH` and slot `i mod W` (R71), and the slot is
that of column `slot (i mod W)`, since `slot` undoes itself (R147; log entry 16). -/
def renderBuffer (c : Config) (t duty : Nat) (pixel : Nat → Nat → Rgb) : List Word :=
  (List.range (bufferWords c)).map fun i =>
    let r := i / (depth * c.w)
    let j := i / c.w % depth
    let x := slot (i % c.w)
    pixelWord c t duty (pixel x r) (pixel x (r + rows c)) r j x

end Sys2Proof.Machine
end

