-- ==== Sys2Proof/Machine/Encoder.lean ====
section
/-! DEFINITION. The bitplane encoder's commands (40_encoder.md): SETPIXEL, FILL, ENCODEFRAME. Each is one atomic step of
the host (R17, R80) and writes only the write target `FS[WIDX]` and the tear record (R155). -/

namespace Sys2Proof.Machine

/-- The loop of SETPIXEL over the listed bitplanes: read the old word, write the merged one (R150). It answers none
where a word does not exist. -/
def mergePlanes (s : State) (half : Half) (p : Rgb) (r x : Nat) : List Nat → FrameStore → Option FrameStore
  | [], f => some f
  | j :: js, f =>
    match fsRead f s.widx (widx s.cfg r j (slot x)) with
    | none => none
    | some old =>
      mergePlanes s half p r x js
        (fsWrite f s.widx (widx s.cfg r j (slot x))
          (mergedWord s.cfg s.t.toNat s.duty.toNat half p r j x old))

/-- Writing every word of the write target: pixel `(x, y)` shows `pixel x y` (R153, R156). -/
def renderTarget (pixel : Nat → Nat → Rgb) (s : State) : Result :=
  match s.fs with
  | none => .fault .frameStoreAccess
  | some f =>
    .next (recordTear
      { s with fs := some (setBuffer f s.widx (renderBuffer s.cfg s.t.toNat s.duty.toNat pixel)) })

/-- `SETPIXEL x, y, r, g, b` (R150). Coordinates outside the panel change nothing (R151). -/
def execSetpixel (x y : Nat) (colour : Rgb) (s : State) : Result :=
  whenLive s <|
    if outOfRange s.cfg x y then .next s
    else
      match s.fs with
      | none => .fault .frameStoreAccess
      | some f =>
        let (half, r) := pixelRow s.cfg y
        match mergePlanes s half colour r x (List.range depth) f with
        | none => .fault .frameStoreAccess
        | some f' => .next (recordTear { s with fs := some f' })

/-- `FILL r, g, b` (R153): every pixel of the write target, with no word read. -/
def execFill (colour : Rgb) (s : State) : Result :=
  whenLive s (renderTarget (fun _ _ => colour) s)

/-- `ENCODEFRAME` (R156): the caller's frame into the write target. -/
def execEncodeframe (s : State) : Result :=
  whenLive s (whenFrameOK s (renderTarget (callerPixel s) s))

end Sys2Proof.Machine
end

