-- ==== Sys2Proof/Machine/Frame.lean ====
section
/-! DEFINITION. The frame-level commands on the caller's frame (44_frame_ops.md): SETFRAMEBASE, FSETPIXEL, FFILL,
FCLEAR. They need no LIVE = 1 and touch only host memory and FRAME_BASE. -/

namespace Sys2Proof.Machine

/-- The loop of FFILL: every pixel, rows ascending, columns ascending (R294). -/
def fillCallerFrame (p : Rgb) (s : State) : State :=
  (List.range s.cfg.h).foldl
    (fun s y => (List.range s.cfg.w).foldl (fun s x => writeCallerPixel x y p s) s) s

/-- The loop of FCLEAR: every byte of the frame is 0 (R296). -/
def clearCallerFrame (s : State) : State :=
  (List.range (frameBytes s.cfg)).foldl (fun s k => memWrite (s.frameBase.toNat + k) 0 s) s

/-- `SETFRAMEBASE addr` (R290): no range test here. -/
def execSetframebase (addr : BitVec 32) (s : State) : Result := .next { s with frameBase := addr }

/-- `FSETPIXEL x, y, r, g, b` (R292): the channels are stored uncorrected; coordinates outside change nothing. -/
def execFsetpixel (x y : Nat) (colour : Rgb) (s : State) : Result :=
  whenFrameOK s <|
    if outOfRange s.cfg x y then .next s else .next (writeCallerPixel x y colour s)

/-- `FFILL r, g, b` (R294). -/
def execFfill (colour : Rgb) (s : State) : Result := whenFrameOK s (.next (fillCallerFrame colour s))

/-- `FCLEAR` (R296). -/
def execFclear (s : State) : Result := whenFrameOK s (.next (clearCallerFrame s))

end Sys2Proof.Machine
end

