-- ==== Sys2Proof/Machine/Plan.lean ====
section
/-! DEFINITION. The plan builder (41_bcm_plan.md): cost functions, the search for the transition bit, and the
descriptor chains. It runs inside INIT only (R180). -/

namespace Sys2Proof.Machine

/-- `Σ_{i=lo}^{hi} f(i)`, 0 over an empty range (R15). -/
def sumFrom (lo hi : Nat) (f : Nat → Nat) : Nat := ((List.range (hi + 1 - lo)).map fun k => f (lo + k)).sum

/-- `DPR(t)`: descriptors per row (R181). -/
def descriptorsPerRow (t : Nat) : Nat := 1 + sumFrom (t + 1) (depth - 1) fun i => 2 ^ (i - t - 1)

/-- `ramRequired(t)`, in bytes (R182). -/
def ramRequired (c : Config) (t : Nat) : Nat := descriptorsPerRow t * rows c * nbuf * c.descSize

/-- `nsPerRow(t)` (R183). -/
def nsPerRow (c : Config) (t : Nat) : Nat :=
  depth * c.latchNs + sumFrom (t + 1) (depth - 1) fun i => 2 ^ (i - t - 1) * (depth - i) * c.latchNs

/-- `refreshRate(t)`: whole Hz, rounded down (R184). -/
def refreshRate (c : Config) (t : Nat) : Nat := 1000000000 / (nsPerRow c t * rows c)

/-- `accept(t)` for the draws of this INIT (R185). -/
def accept (c : Config) (d : InitDraw) (t : Nat) : Bool :=
  decide (ramRequired c t ≤ d.largestFree) &&
  decide ((ramRequired c t : Int) ≤ (d.totalFree : Int) - c.reservedBytes) &&
  decide (c.minRefreshHz ≤ (refreshRate c t : Int))

/-- The smallest accepted `t` in `0 .. DEPTH-1`, if there is one (R186). -/
def planTransitionBit (c : Config) (d : InitDraw) : Option Nat := (List.range depth).find? (accept c d)

/-- The longest descriptor of the chains for `t` exceeds `DESC_MAX_BYTES` (R192). -/
def descriptorTooLong (c : Config) (t : Nat) : Bool :=
  decide (c.descMaxBytes < max (t + 1) (depth - t - 1) * c.w * 2)

/-- One descriptor as `linkDescriptor` fills it in: bitplanes `first .. first + planes - 1` of row `r` (R190, R310). -/
def planesDescriptor (c : Config) (b : BufIdx) (r first planes : Nat) : Descriptor :=
  { buf := b, off := widx c r first 0, len := planes * c.w * 2, eof := false }

/-- The descriptors of row `r` for transition bit `t`: bitplanes `0 .. t` once, then for each `i > t` the bitplanes
`i .. DEPTH-1`, `2^(i-t-1)` times (R190). -/
def rowDescriptors (c : Config) (t : Nat) (b : BufIdx) (r : Nat) : List Descriptor :=
  planesDescriptor c b r 0 (t + 1) ::
    (List.range (depth - 1 - t)).flatMap fun k =>
      List.replicate (2 ^ k) (planesDescriptor c b r (t + 1 + k) (depth - (t + 1 + k)))

/-- Sets `eof` on the last descriptor of a chain (R190, R121). -/
def markEnd : List Descriptor → List Descriptor
  | [] => []
  | [d] => [{ d with eof := true }]
  | d :: d' :: ds => d :: markEnd (d' :: ds)

/-- Chain `b` for transition bit `t` (R190). -/
def buildChain (c : Config) (t : Nat) (b : BufIdx) : List Descriptor :=
  markEnd ((List.range (rows c)).flatMap (rowDescriptors c t b))

/-- Both chains (R190). -/
def buildChains (c : Config) (t : Nat) : DescStore := ⟨buildChain c t 0, buildChain c t 1⟩

end Sys2Proof.Machine
end

