-- ==== Sys2Proof/Machine/Init.lean ====
section
/-! DEFINITION. INIT and SHUTDOWN (42_sync.md, sections 2 and 3; 60_exceptions.md, sections 1 and 2). -/

namespace Sys2Proof.Machine

/-- The result codes of INIT (R340). -/
inductive InitCode where
  | ok
  | errNoMem
  | errResource
  | errPeriph
  | errConfig
deriving DecidableEq, Repr

/-- The value of `CODE` for each result (R340). -/
def codeBits : InitCode → BitVec 4
  | .ok => 0
  | .errNoMem => 1
  | .errResource => 2
  | .errPeriph => 3
  | .errConfig => 4

/-- The draw the next INIT finds (R10): the queued one, else a free one (log entry 3). -/
def currentDraw (s : State) : InitDraw :=
  match s.draws with
  | d :: _ => d
  | [] => Config.freeDraw s.drawCount

/-- The state with that draw used up (log entry 12). -/
def dropDraw (s : State) : State :=
  match s.draws with
  | _ :: ds => { s with draws := ds }
  | [] => { s with drawCount := s.drawCount + 1 }

/-- The outcome of INIT's steps 1 to 6 and 10: the transition bit, or the code of the first step that fails (R230,
R341). -/
def initOutcome (c : Config) (d : InitDraw) : Except InitCode Nat :=
  if !configOK c then .error .errConfig
  else if !(d.allocFs0 && d.allocFs1) then .error .errNoMem
  else
    match planTransitionBit c d with
    | none => .error .errResource
    | some t =>
      if descriptorTooLong c t then .error .errConfig
      else if !(d.allocDs0 && d.allocDs1) then .error .errNoMem
      else if !d.allocSignal then .error .errNoMem
      else if !d.setupOk then .error .errPeriph
      else .ok t

/-- A buffer as `FILL 0, 0, 0` would write it (R230 step 9). -/
def blackBuffer (c : Config) (t duty : Nat) : List Word := renderBuffer c t duty fun _ _ => ⟨0, 0, 0⟩

/-- What a successful INIT with transition bit `t` leaves (R230 steps 7 to 11, R232). -/
def startLive (t : Nat) (s : State) : State :=
  let duty := dutyOf s.cfg s.cfg.brightInit.toNat
  { setPercent s.cfg.brightInit.toNat s with
    live := true
    t := BitVec.ofNat 3 t
    fs := some ⟨blackBuffer s.cfg t duty, blackBuffer s.cfg t duty⟩
    ds := some (buildChains s.cfg t)
    link0 := 0, link1 := 1
    widx := 1
    dmaRun := true
    cur := 0, dpos := 0, wpos := 0
    done := false
    phase := .idle
    code := codeBits .ok
    result := 0 }

/-- What a failed INIT leaves: everything as before, but CODE and RESULT (R231). -/
def failInit (e : InitCode) (s : State) : State :=
  { s with code := codeBits e, result := (codeBits e).zeroExtend 32 }

/-- INIT of a block that is not live, with the draw at hand (R230, R231). -/
def runInit (s : State) : State :=
  match initOutcome s.cfg (currentDraw s) with
  | .error e => failInit e (dropDraw s)
  | .ok t => startLive t (dropDraw s)

/-- `INIT` (R230). -/
def execInit (s : State) : Result :=
  if s.live then .next (raiseFault .reinit s) else .next (runInit s)

/-- What SHUTDOWN leaves of a live block (R240): the replay agent stopped, FS and DS released, the listed registers 0;
CODE, RESULT, FAULT, HAZARD, FRAME_BASE and OUT are kept. -/
def stopLive (s : State) : State :=
  { s with
    dmaRun := false
    fs := none, ds := none
    t := 0, link0 := 0, link1 := 0, widx := 0, cur := 0, dpos := 0, wpos := 0
    percent := 0, duty := 0, done := false
    live := false }

/-- `SHUTDOWN` (R240); a second one changes nothing (R241). -/
def execShutdown (s : State) : Result := if s.live then .next (stopLive s) else .next s

end Sys2Proof.Machine
end

