-- ==== Sys2Proof/Machine/Sync.lean ====
section
/-! DEFINITION. The buffer swap and sync controller (42_sync.md, section 1): UPDATE, UPDATE.B, FUPDATE and the wait
step. -/

namespace Sys2Proof.Machine

/-- `UPDATE` with BLK = 0 (R220): flip to the write target and go on. -/
def execUpdate (s : State) : Result := whenLive s (.next (flipAndAdvance s))

/-- `UPDATE.B`, BLK = 1 (R220): flip to the write target and wait for the completion. -/
def execUpdateB (s : State) : Result := whenLive s (.next { flipAndAdvance s with phase := .waitU })

/-- `FUPDATE`, part 1 (R226): both faults are tested before the wait begins. -/
def execFupdate (s : State) : Result := whenLive s (whenFrameOK s (.next { s with phase := .waitF }))

/-- `FUPDATE`, part 2, in the same step as the end of its wait (R226): encode the caller's frame into the write target
as ENCODEFRAME does, flip, and return. The tear record is made where the words are written, before the flip (log
entry 18). -/
def finishFupdate (s : State) : Result :=
  if frameOK s then
    match renderTarget (callerPixel s) s with
    | .next s' => .next { flipAndAdvance s' with phase := .idle }
    | .fault e => .fault e
    | .refused e => .refused e
  else .fault .hostMemoryAccess

/-- The wait step (R224): enabled when a wait holds and DONE = 1, it consumes the completion. Where it is not enabled
the command holds, without effect (R16). -/
def waitStep (s : State) : Result :=
  match s.phase with
  | .idle => .next s
  | .waitU => if s.done then .next { s with done := false, phase := .idle } else .next s
  | .waitF => if s.done then finishFupdate { s with done := false } else .next s

end Sys2Proof.Machine
end

