-- ==== Sys2Proof/Machine/System.lean ====
section
/-! DEFINITION. NOP and the reserved opcodes (60_exceptions.md, section 3). -/

namespace Sys2Proof.Machine

/-- `NOP` (R348): no effect. -/
def execNop (s : State) : Result := .next s

/-- The reserved opcode 0xE (R347): raises F_ILLEGAL, whatever LIVE is. -/
def execReservedE (s : State) : Result := .next (raiseFault .illegal s)

/-- The reserved opcode 0xF (R347): raises F_ILLEGAL, whatever LIVE is. -/
def execReservedF (s : State) : Result := .next (raiseFault .illegal s)

end Sys2Proof.Machine
end

