-- ==== Sys2Proof/Machine/Dispatch.lean ====
section
/-! DEFINITION. One arm for each command: the call of its meaning. The port decides before it whether the command runs
at all (R110). -/

namespace Sys2Proof.Machine

def exec (i : Instr) (s : State) : Host.Outcome State Fault Refusal :=
  match i with
  | .nop => Sys2Proof.Machine.execNop s
  | .init => Sys2Proof.Machine.execInit s
  | .shutdown => Sys2Proof.Machine.execShutdown s
  | .setbright percent => Sys2Proof.Machine.execSetbright percent s
  | .getbright => Sys2Proof.Machine.execGetbright s
  | .setpixel x y colour => Sys2Proof.Machine.execSetpixel x y colour s
  | .fill colour => Sys2Proof.Machine.execFill colour s
  | .update => Sys2Proof.Machine.execUpdate s
  | .updateB => Sys2Proof.Machine.execUpdateB s
  | .encodeframe => Sys2Proof.Machine.execEncodeframe s
  | .fupdate => Sys2Proof.Machine.execFupdate s
  | .setframebase addr => Sys2Proof.Machine.execSetframebase addr s
  | .fsetpixel x y colour => Sys2Proof.Machine.execFsetpixel x y colour s
  | .ffill colour => Sys2Proof.Machine.execFfill colour s
  | .fclear => Sys2Proof.Machine.execFclear s
  | .reservedE => Sys2Proof.Machine.execReservedE s
  | .reservedF => Sys2Proof.Machine.execReservedF s

end Sys2Proof.Machine
end

