-- ==== Sys2Proof/Machine/Replay.lean ====
section
/-! DEFINITION. The replay agent (45_dma_replay.md): the word step and the pass end. -/

namespace Sys2Proof.Machine

/-- `emit(w)` (R315). -/
def emit (w : Word) (s : State) : State := { s with out := s.out ++ [w] }

/-- The pass end (R316): follow the end marker's link, and raise the single-slot completion. -/
def passEnd (s : State) : State := { s with cur := linkOf s s.cur, dpos := 0, done := true }

/-- The replay position after one word of descriptor `d` (R313). -/
def advance (d : Descriptor) (s : State) : State :=
  if s.wpos.toNat + 1 = d.len / 2 then
    if d.eof then passEnd { s with wpos := 0 } else { s with wpos := 0, dpos := s.dpos + 1 }
  else { s with wpos := s.wpos + 1 }

/-- The word step (R313), enabled while DMA_RUN = 1 (R311); otherwise the agent has no step and nothing changes. The
word read is at `WPOS XOR 1`, so that columns leave in order (R314). -/
def replayStep (s : State) : Result :=
  if s.dmaRun then
    match s.ds.bind fun ds => (chainOf ds s.cur)[s.dpos.toNat]? with
    | none => .fault .descriptorAccess
    | some d =>
      match s.fs.bind fun fs => fsRead fs d.buf (d.off + (s.wpos.toNat ^^^ 1)) with
      | none => .fault .frameStoreAccess
      | some w => .next (advance d (emit w s))
  else .next s

end Sys2Proof.Machine
end

