-- ==== Sys2Proof/Machine/Port.lean ====
section
/-! DEFINITION. The command port (R110) and the interleaving of the agents' steps (R6, R17, R79). -/

namespace Sys2Proof.Machine

/-- A command word presented on the port (R110): during a wait it is not executed and raises F_CONCURRENT, which is
tested before the word is decoded (R350); otherwise the command it decodes to runs. -/
def presentCommand (w : CommandWord) (s : State) : Result :=
  match s.phase with
  | .idle => exec (decode w) s
  | .waitU => .next (raiseFault .concurrent s)
  | .waitF => .next (raiseFault .concurrent s)

/-- What one turn does (R17, R224, R313, R380). -/
def turnStep (turn : Turn) (s : State) : Result :=
  match turn with
  | .command w => presentCommand w s
  | .wait => waitStep s
  | .replay => replayStep s
  | .powerOn => .next (powerOn s)

/-- Whose turn it is: the next queued turn, else a free one (R79; log entry 2). -/
def nextTurn (s : State) : Turn :=
  match s.turns with
  | turn :: _ => turn
  | [] => Config.freeTurn s.turnCount

/-- The state with that turn used up. -/
def dropTurn (s : State) : State :=
  match s.turns with
  | _ :: ts => { s with turns := ts }
  | [] => { s with turnCount := s.turnCount + 1 }

end Sys2Proof.Machine
end

