-- ==== Sys2Proof/Machine/Step.lean ====
section
/-! DEFINITION. One step of the machine: the next turn of the interleaving, with its effect (R17, R79). -/

namespace Sys2Proof.Machine

/-- One step: take the next turn, and do what it does. -/
def step (s : State) : Host.Outcome State Fault Refusal := turnStep (nextTurn s) (dropTurn s)

/-- The state in which the very next step is the host presenting the command word with these bits (log entry 4). -/
def State.withFetchWord (s : State) (nbits w : Nat) : State :=
  { s with turns := .command (BitVec.ofNat 64 (w % 2 ^ nbits)) :: s.turns }

end Sys2Proof.Machine
end

