-- ==== Sys2Proof/Machine/Observe.lean ====
section
/-! DEFINITION. What can be read of the block without changing it: the register window (R47), the colour a buffer holds
(R320), the byte view of a buffer (R73), and a descriptor's `next` (R120). No command and no agent runs these. -/

namespace Sys2Proof.Machine

/-- `PHASE` as its two bits (R41). -/
def phaseBits : Phase → BitVec 2
  | .idle => 0
  | .waitU => 1
  | .waitF => 2

/-- `CORR_MODE` as its two bits (R47). -/
def corrModeBits : CorrMode → BitVec 2
  | .none => 0
  | .strict => 1
  | .modified => 2

/-- A buffer or chain index as its one bit. -/
def idxBit (b : BufIdx) : BitVec 1 := BitVec.ofNat 1 b.val

/-- The value of the PLAN register's bits 15..8: DPR(T) when LIVE = 1, else 0 (R47). -/
def planDescriptors (s : State) : BitVec 8 :=
  if s.live then BitVec.ofNat 8 (descriptorsPerRow s.t.toNat) else 0

/-- The register window (R47): what the host reads at byte offset `offset`. A read changes nothing and may be made at
any time, and an offset not listed reads 0 (log entry 22). DESIGN CHOICE, unsafe: where W or H is 2^16 or more, or RIP
is 256 or more, R47 gives no value that fits the field; GEOM and CFG then read it modulo the field's width (log entry
23). -/
def window (s : State) (offset : Nat) : BitVec 32 :=
  match offset with
  | 0x00 =>
    0#24 ++ s.code ++ 0#1 ++ BitVec.ofBool s.dmaRun ++ BitVec.ofBool (decide (s.phase ≠ .idle)) ++ BitVec.ofBool s.live
  | 0x04 => 0#27 ++ s.fault
  | 0x08 => 0#31 ++ BitVec.ofBool s.hazard
  | 0x0C => s.result
  | 0x10 => s.duty ++ 0#9 ++ s.percent
  | 0x14 =>
    0#22 ++ phaseBits s.phase ++ 0#3 ++ BitVec.ofBool s.done ++ idxBit s.link1 ++ idxBit s.link0 ++ idxBit s.cur ++
      idxBit s.widx
  | 0x18 => 0#16 ++ planDescriptors s ++ 0#5 ++ s.t
  | 0x1C => s.wpos ++ s.dpos
  | 0x20 => s.frameBase
  | 0x24 => BitVec.ofNat 16 s.cfg.h ++ BitVec.ofNat 16 s.cfg.w
  | 0x28 => 0#8 ++ BitVec.ofNat 8 s.cfg.rip ++ BitVec.ofNat 8 depth ++ 0#6 ++ corrModeBits s.cfg.corrMode
  | _ => 0

/-- The word of column `x`, row `r`, bitplane `j` in buffer `b`; a word that does not exist reads as 0 here. -/
def columnWord (s : State) (b : BufIdx) (r j x : Nat) : Word :=
  match s.fs.bind fun f => fsRead f b (widx s.cfg r j (slot x)) with
  | some w => w
  | none => 0

/-- One channel of `decode` (R320): the sum of `2^j` over the bitplanes whose word has the signal at position `p`. -/
def decodeChannel (s : State) (b : BufIdx) (r x p : Nat) : Nat :=
  ((List.range depth).map fun j =>
    if columnWord s b r j x &&& signalBit p ≠ 0 then 2 ^ j else 0).sum

/-- `decode(b, x, y)` (R320): the colour that buffer `b` holds for pixel `(x, y)`: red, green, blue. -/
def decodeColour (s : State) (b : BufIdx) (x y : Nat) : Nat × Nat × Nat :=
  let l := s.cfg.layout
  match pixelRow s.cfg y with
  | (.one, r) => (decodeChannel s b r x l.r1, decodeChannel s b r x l.g1, decodeChannel s b r x l.b1)
  | (.two, r) => (decodeChannel s b r x l.r2, decodeChannel s b r x l.g2, decodeChannel s b r x l.b2)

/-- The byte view of buffer `b` (R73): word `i` at bytes `2i` and `2i + 1`, least significant byte first. -/
def frameByte (f : FrameStore) (b : BufIdx) (k : Nat) : Option Byte :=
  (fsRead f b (k / 2)).map fun w => if k % 2 = 0 then w.extractLsb' 0 8 else w.extractLsb' 8 8

/-- The `next` field of descriptor `k` of chain `c` (R120): the chain and the index the replay agent goes to after it. -/
def nextDescriptor (s : State) (c : BufIdx) (k : Nat) : Option (BufIdx × Nat) :=
  (s.ds.bind fun ds => (chainOf ds c)[k]?).map fun d => if d.eof then (linkOf s c, 0) else (c, k + 1)

end Sys2Proof.Machine
end

