-- ==== Sys2Proof/Safety.lean ====
section
/-! DEFINITION. What counts as a safe run, in the terms the statements use: the invariant of the block, runs over a given
interleaving, and the words one pass emits. -/

namespace Sys2Proof.Machine

/-- Every bit that `LAYOUT` gives to no signal is 0 (R102). -/
def unusedBitsZero (l : Layout) (w : Word) : Bool :=
  (List.range 16).all fun p => decide (p ∈ layoutPositions l) || !w.getLsbD p

/-- A frame buffer as INIT leaves it and the encoder keeps it: `R * DEPTH * W` words (R33, R71), unused bits 0 (R102). -/
def bufferOK (c : Config) (ws : List Word) : Bool :=
  decide (ws.length = bufferWords c) && ws.all (unusedBitsZero c.layout)

/-- What holds of a live block's stores, replay position, brightness and links. -/
structure State.LiveInv (s : State) : Prop where
  /-- INIT checked the configuration (R230 step 1). -/
  config : configOK s.cfg = true
  /-- The replay agent runs (R224). -/
  running : s.dmaRun = true
  /-- Both frame buffers exist whole (R33, R233). -/
  frames : ∃ f, s.fs = some f ∧ bufferOK s.cfg f.buf0 = true ∧ bufferOK s.cfg f.buf1 = true
  /-- The chains are the ones INIT built for T (R34, R82). -/
  chains : s.ds = some (buildChains s.cfg s.t.toNat)
  /-- The replay position is a word of a descriptor of the chain (R313). -/
  position : ∃ d, (buildChain s.cfg s.t.toNat s.cur)[s.dpos.toNat]? = some d ∧ s.wpos.toNat < d.len / 2
  /-- PERCENT is legal and DUTY is its duty (R38, R39). -/
  brightness : s.percent.toNat ≤ 100 ∧ s.duty.toNat = dutyOf s.cfg s.percent.toNat
  /-- The links are INIT's, or both lead to the buffer last flipped to, which is not the write target (R222, R393). -/
  links : (s.link0 = 0 ∧ s.link1 = 1 ∧ s.cur = 0 ∧ s.widx = 1) ∨ (s.link0 = s.widx + 1 ∧ s.link1 = s.widx + 1)
  /-- A completion not yet consumed means that the agent has left the write target (R225, R227). -/
  completed : s.done = true → s.cur = s.widx + 1

/-- What holds of a block that is not live: the replay agent stopped, the stores absent, the registers that SHUTDOWN
clears 0, no wait (R50, R231, R240). -/
structure State.IdleInv (s : State) : Prop where
  stopped : s.dmaRun = false
  stores : s.fs = none ∧ s.ds = none
  registers : s.t = 0 ∧ s.link0 = 0 ∧ s.link1 = 0 ∧ s.widx = 0 ∧ s.cur = 0 ∧ s.dpos = 0 ∧ s.wpos = 0 ∧
    s.percent = 0 ∧ s.duty = 0 ∧ s.done = false
  noWait : s.phase = .idle

/-- The invariant of the block: host memory in canonical form, a legal result code, and the two cases of LIVE. A wait
for FUPDATE holds only while the caller's frame is inside HOST_MEM (R226). -/
structure State.Inv (s : State) : Prop where
  memory : memWf s = true
  code : s.code.toNat ≤ 4
  whenLive : s.live = true → s.LiveInv
  whenIdle : s.live = false → s.IdleInv
  waiting : s.phase = .waitF → frameOK s = true

/-- The effects of these turns in this order, stopping at the first fault or refusal. -/
def runTurns : List Turn → State → Result
  | [], s => .next s
  | turn :: turns, s =>
    match turnStep turn s with
    | .next s' => runTurns turns s'
    | .fault e => .fault e
    | .refused e => .refused e

/-- No turn of the list is a power-on reset. -/
def noPowerOn (turns : List Turn) : Bool := turns.all fun turn => decide (turn ≠ .powerOn)

/-- Weak fairness of the replay agent over an endless interleaving (R396): it has a turn after every turn. -/
def weaklyFair (turns : Nat → Turn) : Prop := ∀ n, ∃ m, n ≤ m ∧ turns m = .replay

/-- The bitplanes that one row's transmission sends, in order (R193): `0 .. T` once, then for each `i > T` the planes
`i .. DEPTH-1`, `2^(i-T-1)` times. -/
def planeSequence (t : Nat) : List Nat :=
  List.range (t + 1) ++
    (List.range (depth - 1 - t)).flatMap fun k =>
      (List.replicate (2 ^ k) (List.range' (t + 1 + k) (depth - (t + 1 + k)))).flatten

/-- The words that one pass of chain `b` emits when nothing writes buffer `b` (R319): the rows ascending, each row's
bitplane sequence, each bitplane's columns ascending. -/
def passWords (s : State) (b : BufIdx) : List Word :=
  (List.range (rows s.cfg)).flatMap fun r =>
    (planeSequence s.t.toNat).flatMap fun j =>
      (List.range s.cfg.w).map fun x => columnWord s b r j x

/-- The length of a pass in words, `R * W * (T + 1 + 2^(DEPTH-T) - (DEPTH-T) - 1)` (R319). -/
def passLength (s : State) : Nat :=
  rows s.cfg * s.cfg.w * (s.t.toNat + 1 + 2 ^ (depth - s.t.toNat) - (depth - s.t.toNat) - 1)

/-- Writing SETPIXEL of `pixel x y` at each of the listed coordinates, in the list's order. -/
def setPixels (pixel : Nat → Nat → Rgb) : List (Nat × Nat) → State → Result
  | [], s => .next s
  | (x, y) :: ps, s =>
    match exec (.setpixel x y (pixel x y)) s with
    | .next s' => setPixels pixel ps s'
    | .fault e => .fault e
    | .refused e => .refused e

/-- Writing FSETPIXEL of `pixel x y` at each of the listed coordinates, in the list's order. -/
def setCallerPixels (pixel : Nat → Nat → Rgb) : List (Nat × Nat) → State → Result
  | [], s => .next s
  | (x, y) :: ps, s =>
    match exec (.fsetpixel x y (pixel x y)) s with
    | .next s' => setCallerPixels pixel ps s'
    | .fault e => .fault e
    | .refused e => .refused e

/-- The list names every pixel of the panel and no other, each at least once. -/
def coversPanel (c : Config) (ps : List (Nat × Nat)) : Prop :=
  ∀ x y, (x, y) ∈ ps ↔ x < c.w ∧ y < c.h

end Sys2Proof.Machine
end

