-- ==== Sys2Proof/Certificates/Slice0/Obligations.lean ====
section
/-! DEFINITION. The statements about the BCM frame engine that are to be proved. OBLIGATIONS.json says of each which rule
or section of the spec it formalises. -/

open Sys2Proof Sys2Proof.Machine

/-! ## Encoding and the command port -/

/-- Words written out from the encoding tables (R111, R114, R117) decode to the commands they stand for. -/
def Obligations.DecodeReadsWrittenWords : Prop :=
  decode 0x0000000000000000#64 = .nop ∧
  decode 0x2FFFFFFFFFFFFFFF#64 = .shutdown ∧
  decode 0x30000000FFFFFFFB#64 = .setbright (-5) ∧
  decode 0x5000050003A50FF0#64 = .setpixel 5 3 ⟨0xA5, 0x0F, 0xF0⟩ ∧
  decode 0x6000000000102030#64 = .fill ⟨0x10, 0x20, 0x30⟩ ∧
  decode 0x7E00000000000000#64 = .update ∧
  decode 0x7100000000000000#64 = .updateB ∧
  decode 0xA00000003FFC0000#64 = .setframebase 0x3FFC0000 ∧
  decode 0xB000000000123456#64 = .fsetpixel 0 0 ⟨0x12, 0x34, 0x56⟩ ∧
  decode 0xE000000000000000#64 = .reservedE

/-- Decoding the assembled word of a well-formed command gives the command back (R111 to R117). -/
def Obligations.DecodeEncodeRoundTrip : Prop :=
  ∀ i : Instr, i.wellFormed = true → decode (encode i) = i

/-- Every 64-bit word decodes to a command the assembler can write, and that command's word decodes to it (R115). -/
def Obligations.DecodedCommandsAreWellFormed : Prop :=
  ∀ w : CommandWord, (decode w).wellFormed = true ∧ decode (encode (decode w)) = decode w

/-- A field that the format does not read selects nothing: words with the same OPC and the same fields that the
format reads are the same command (R112). -/
def Obligations.IgnoredFieldsSelectNothing : Prop :=
  ∀ w v : CommandWord, fieldOpc w = fieldOpc v →
    (fieldOpc w ∈ [0x0#4, 0x1#4, 0x2#4, 0x4#4, 0x8#4, 0x9#4, 0xD#4, 0xE#4, 0xF#4] → decode w = decode v) ∧
    (fieldOpc w = 0x7#4 → w.getLsbD 56 = v.getLsbD 56 → decode w = decode v) ∧
    (fieldOpc w ∈ [0x6#4, 0xC#4] → w.extractLsb' 0 24 = v.extractLsb' 0 24 → decode w = decode v) ∧
    (fieldOpc w ∈ [0x3#4, 0xA#4] → w.extractLsb' 0 32 = v.extractLsb' 0 32 → decode w = decode v) ∧
    (fieldOpc w ∈ [0x5#4, 0xB#4] → w.extractLsb' 0 56 = v.extractLsb' 0 56 → decode w = decode v)

/-- While no wait holds, a step in which the host presents a command word runs the command it decodes to, on the state
with that turn used up; so the step after `withFetchWord` of a well-formed command's word runs that command (R110). -/
def Obligations.StepRunsThePresentedCommand : Prop :=
  (∀ (s : State) (w : CommandWord) (ts : List Turn), s.turns = .command w :: ts → s.phase = .idle →
    step s = exec (decode w) { s with turns := ts }) ∧
  (∀ (s : State) (i : Instr), s.phase = .idle → i.wellFormed = true →
    step (s.withFetchWord 64 (encode i).toNat) = exec i s)

/-- A command word presented during a wait is not executed and raises F_CONCURRENT, whatever the word is: nothing else
changes (R110, R350). -/
def Obligations.CommandDuringAWaitIsRejected : Prop :=
  ∀ (s : State) (w : CommandWord) (ts : List Turn), s.turns = .command w :: ts → s.phase ≠ .idle →
    step s = .next { s with turns := ts, fault := s.fault ||| 0b01000#5 }

/-! ## Faults -/

/-- Every word with a reserved opcode raises F_ILLEGAL and nothing else, live or not; during a wait it raises
F_CONCURRENT instead (R347). -/
def Obligations.ReservedOpcodesRaiseIllegal : Prop :=
  (∀ s : State, exec .reservedE s = .next { s with fault := s.fault ||| 0b00001#5 } ∧
    exec .reservedF s = .next { s with fault := s.fault ||| 0b00001#5 }) ∧
  (∀ (w : CommandWord) (s : State), fieldOpc w = 0xE#4 ∨ fieldOpc w = 0xF#4 →
    (s.phase = .idle → presentCommand w s = .next { s with fault := s.fault ||| 0b00001#5 }) ∧
    (s.phase ≠ .idle → presentCommand w s = .next { s with fault := s.fault ||| 0b01000#5 }))

/-- NOP, whatever its ignored bits, leaves the state unchanged, live or not; during a wait it raises F_CONCURRENT
(R348). -/
def Obligations.NopChangesNothing : Prop :=
  (∀ s : State, exec .nop s = .next s) ∧
  (∀ (w : CommandWord) (s : State), fieldOpc w = 0x0#4 →
    (s.phase = .idle → presentCommand w s = .next s) ∧
    (s.phase ≠ .idle → presentCommand w s = .next { s with fault := s.fault ||| 0b01000#5 }))

/-- Each of the commands that need LIVE = 1 raises F_NOT_INIT while LIVE = 0 and changes nothing else, whatever its
operands and wherever the caller's frame lies (R346, R349, R350). -/
def Obligations.CommandsNeedingLiveRaiseNotInit : Prop :=
  ∀ s : State, s.live = false →
    (∀ p, exec (.setbright p) s = .next { s with fault := s.fault ||| 0b00010#5 }) ∧
    exec .getbright s = .next { s with fault := s.fault ||| 0b00010#5 } ∧
    (∀ x y c, exec (.setpixel x y c) s = .next { s with fault := s.fault ||| 0b00010#5 }) ∧
    (∀ c, exec (.fill c) s = .next { s with fault := s.fault ||| 0b00010#5 }) ∧
    exec .update s = .next { s with fault := s.fault ||| 0b00010#5 } ∧
    exec .updateB s = .next { s with fault := s.fault ||| 0b00010#5 } ∧
    exec .encodeframe s = .next { s with fault := s.fault ||| 0b00010#5 } ∧
    exec .fupdate s = .next { s with fault := s.fault ||| 0b00010#5 }

/-- Where one byte of the caller's frame is outside HOST_MEM, the commands that use the frame raise F_BAD_ADDR and change
nothing else, whatever their operands (R346, R349). -/
def Obligations.BadFrameRaisesBadAddr : Prop :=
  ∀ (s : State) (k : Nat), k < s.cfg.w * s.cfg.h * 3 → inHostMem s.cfg (s.frameBase.toNat + k) = false →
    (∀ x y c, exec (.fsetpixel x y c) s = .next { s with fault := s.fault ||| 0b10000#5 }) ∧
    (∀ c, exec (.ffill c) s = .next { s with fault := s.fault ||| 0b10000#5 }) ∧
    exec .fclear s = .next { s with fault := s.fault ||| 0b10000#5 } ∧
    (s.live = true → exec .encodeframe s = .next { s with fault := s.fault ||| 0b10000#5 } ∧
      exec .fupdate s = .next { s with fault := s.fault ||| 0b10000#5 })

/-- Fault bits accumulate: whatever happens but power-on reset, a bit once set stays 1; power-on reset clears them
(R351). -/
def Obligations.FaultBitsAccumulate : Prop :=
  (∀ (turn : Turn) (s s' : State), turn ≠ .powerOn → turnStep turn s = .next s' →
    ∀ i : Nat, s.fault.getLsbD i = true → s'.fault.getLsbD i = true) ∧
  (∀ s s' : State, turnStep .powerOn s = .next s' → s'.fault = 0)

/-- A presented command word that changes FAULT has raised one fault, and that is all it has done (R346, R350). -/
def Obligations.FaultingCommandChangesOneBit : Prop :=
  ∀ (w : CommandWord) (s s' : State), presentCommand w s = .next s' → s'.fault ≠ s.fault →
    ∃ f : FaultBit, s' = { s with fault := s.fault ||| faultMask f }

/-! ## Brightness -/

/-- SETBRIGHT of a live block stores the percent clamped to 0 .. 100 and its duty, returns the previous percent, and
changes nothing else (R265). -/
def Obligations.SetbrightStoresTheClampedPercent : Prop :=
  ∀ (p : Int) (s : State), s.live = true →
    ∃ q : Nat, (q : Int) = min 100 (max 0 p) ∧
      exec (.setbright p) s = .next
        { s with
          percent := BitVec.ofNat 7 q
          duty := BitVec.ofNat 16 (dutyOf s.cfg q)
          result := s.percent.zeroExtend 32 }

/-- GETBRIGHT of a live block returns PERCENT, not DUTY, and changes nothing else (R266). -/
def Obligations.GetbrightReturnsThePercent : Prop :=
  ∀ s : State, s.live = true → exec .getbright s = .next { s with result := s.percent.zeroExtend 32 }

/-- The duty function, under a configuration that INIT accepts: 0 % is 0 and 100 % is W in every mode, it does not
decrease, it stays within W, and `modified` never maps a nonzero linear duty to 0 (R267). -/
def Obligations.DutyFunctionProperties : Prop :=
  ∀ c : Config, configOK c = true →
    dutyOf c 0 = 0 ∧ dutyOf c 100 = c.w ∧
    (∀ p q, p ≤ q → q ≤ 100 → dutyOf c p ≤ dutyOf c q) ∧
    (∀ p, p ≤ 100 → dutyOf c p ≤ c.w) ∧
    (∀ p, p ≤ 100 → c.corrMode = .modified → 1 ≤ (p * c.w + 50) / 100 → 1 ≤ dutyOf c p)

/-! ## The encoder -/

/-- The base word, signal by signal (R141 to R146): OE, LAT and the five address bits as the rules say, every colour
bit 0, and every bit that LAYOUT gives to no signal 0 (R102). -/
def Obligations.BaseWordCarriesAddressBlankingAndLatch : Prop :=
  ∀ (c : Config) (t duty r j x : Nat), layoutLawful c.layout = true →
    let w := baseWord c t duty r j x
    let addr : Int := if j = 0 then (if r = 0 then c.prevRow0 else (r : Int) - 1) else (r : Int)
    (w.getLsbD c.layout.oe = true ↔
      ((j = 0 ∨ t < j) ∧ duty ≤ x) ∨ ((1 ≤ j ∧ j ≤ t) ∧ duty / 2 ^ (t - j + 1) ≤ x) ∨ x = 0 ∨ x = c.w - 1) ∧
    (w.getLsbD c.layout.lat = true ↔ x = c.w - 1) ∧
    ([c.layout.a, c.layout.b, c.layout.c, c.layout.d, c.layout.e].map w.getLsbD =
      (List.range 5).map fun i => (addr % 32).toNat.testBit i) ∧
    (∀ p ∈ [c.layout.r1, c.layout.g1, c.layout.b1, c.layout.r2, c.layout.g2, c.layout.b2], w.getLsbD p = false) ∧
    (∀ p, p ∉ layoutPositions c.layout → w.getLsbD p = false)

/-- With DUTY = 0 every word is blanked; with DUTY = W the words of bitplanes 0 and above T are blanked at columns 0 and
W - 1 only, and those of bitplanes 1 to T also from column `W >> (T - j + 1)` on (R268). -/
def Obligations.BlankingAtTheExtremes : Prop :=
  ∀ (c : Config) (t r j x : Nat), layoutLawful c.layout = true → x < c.w →
    (baseWord c t 0 r j x).getLsbD c.layout.oe = true ∧
    ((j = 0 ∨ t < j) → ((baseWord c t c.w r j x).getLsbD c.layout.oe = true ↔ x = 0 ∨ x = c.w - 1)) ∧
    (1 ≤ j → j ≤ t → ((baseWord c t c.w r j x).getLsbD c.layout.oe = true ↔
      x = 0 ∨ x = c.w - 1 ∨ c.w >>> (t - j + 1) ≤ x))

/-- SETPIXEL of a pixel of the panel replaces the eight words of its column, one a bitplane: base word, the pixel's
corrected channels on its half's signals, and the other half's colour bits of the old word. Every other word of both
buffers is as before, the tear record is made, and nothing else changes (R150, R392). -/
def Obligations.SetpixelReplacesTheColumnOfItsPixel : Prop :=
  ∀ (s : State) (f : FrameStore) (x y : Nat) (p : Rgb), s.live = true → configOK s.cfg = true → s.fs = some f →
    (bufferOf f s.widx).length = bufferWords s.cfg → x < s.cfg.w → y < s.cfg.h →
    ∃ f' : FrameStore,
      exec (.setpixel x y p) s = .next { s with fs := some f', hazard := s.hazard || hwOwns s s.widx } ∧
      bufferOf f' (s.widx + 1) = bufferOf f (s.widx + 1) ∧
      (bufferOf f' s.widx).length = (bufferOf f s.widx).length ∧
      (∀ j < 8, y < rows s.cfg → ∃ old, fsRead f s.widx (widx s.cfg y j (slot x)) = some old ∧
        fsRead f' s.widx (widx s.cfg y j (slot x)) =
          some (baseWord s.cfg s.t.toNat s.duty.toNat y j x ||| rgb1 s.cfg.layout (corrRgb s.cfg p) j |||
            (old &&& c2Mask s.cfg.layout))) ∧
      (∀ j < 8, rows s.cfg ≤ y →
        ∃ old, fsRead f s.widx (widx s.cfg (y - rows s.cfg) j (slot x)) = some old ∧
        fsRead f' s.widx (widx s.cfg (y - rows s.cfg) j (slot x)) =
          some (baseWord s.cfg s.t.toNat s.duty.toNat (y - rows s.cfg) j x |||
            rgb2 s.cfg.layout (corrRgb s.cfg p) j ||| (old &&& c1Mask s.cfg.layout))) ∧
      (∀ i, (∀ j < 8, i ≠ widx s.cfg (if y < rows s.cfg then y else y - rows s.cfg) j (slot x)) →
        fsRead f' s.widx i = fsRead f s.widx i)

/-- SETPIXEL outside the panel changes nothing, no fault bit either; the LIVE test comes first (R151). -/
def Obligations.SetpixelOutsideThePanelIsIgnored : Prop :=
  ∀ (s : State) (x y : Nat) (p : Rgb), s.cfg.w ≤ x ∨ s.cfg.h ≤ y →
    (s.live = true → exec (.setpixel x y p) s = .next s) ∧
    (s.live = false → exec (.setpixel x y p) s = .next { s with fault := s.fault ||| 0b00010#5 })

/-- After SETPIXEL of a pixel of the panel, the colour that the write target holds for it is the colour written,
exactly when correction is off and through GAMMA when it is on; the pixel of the other half at the same column and
scan row keeps its colour (R152, R320). -/
def Obligations.SetpixelThenDecodeGivesTheColour : Prop :=
  ∀ (s s' : State) (f : FrameStore) (x y : Nat) (p : Rgb), s.live = true → configOK s.cfg = true → s.fs = some f →
    (bufferOf f s.widx).length = bufferWords s.cfg → x < s.cfg.w → y < s.cfg.h →
    exec (.setpixel x y p) s = .next s' →
    (s.cfg.corrMode = .none → decodeColour s' s.widx x y = (p.r.toNat, p.g.toNat, p.b.toNat)) ∧
    (s.cfg.corrMode ≠ .none → decodeColour s' s.widx x y =
      ((gammaLookup s.cfg p.r).toNat, (gammaLookup s.cfg p.g).toNat, (gammaLookup s.cfg p.b).toNat)) ∧
    (let y' := if y < rows s.cfg then y + rows s.cfg else y - rows s.cfg
     decodeColour s' s.widx x y' = decodeColour s s.widx x y')

/-- FILL of a live block writes every word of the write target: base word and the corrected channels on both halves'
signals. The other buffer is as before, the tear record is made, and nothing else changes (R153, R392). -/
def Obligations.FillWritesEveryWordOfTheTarget : Prop :=
  ∀ (s : State) (f : FrameStore) (p : Rgb), s.live = true → configOK s.cfg = true → s.fs = some f →
    ∃ f' : FrameStore,
      exec (.fill p) s = .next { s with fs := some f', hazard := s.hazard || hwOwns s s.widx } ∧
      bufferOf f' (s.widx + 1) = bufferOf f (s.widx + 1) ∧
      (bufferOf f' s.widx).length = rows s.cfg * 8 * s.cfg.w ∧
      ∀ r j x, r < rows s.cfg → j < 8 → x < s.cfg.w →
        fsRead f' s.widx (widx s.cfg r j (slot x)) =
          some (baseWord s.cfg s.t.toNat s.duty.toNat r j x ||| rgb1 s.cfg.layout (corrRgb s.cfg p) j |||
            rgb2 s.cfg.layout (corrRgb s.cfg p) j)

/-- FILL leaves the state that SETPIXEL of the same colour at every pixel leaves, in any order and from any contents of
the write target (R154). -/
def Obligations.FillEqualsSetpixelEverywhere : Prop :=
  ∀ (s : State) (f : FrameStore) (p : Rgb) (ps : List (Nat × Nat)), s.live = true → configOK s.cfg = true →
    s.fs = some f → (bufferOf f s.widx).length = bufferWords s.cfg → coversPanel s.cfg ps →
    ∃ s', exec (.fill p) s = .next s' ∧ setPixels (fun _ _ => p) ps s = .next s'

/-- ENCODEFRAME of a live block whose frame is inside HOST_MEM writes every word of the write target from the caller's
frame, channel `c` of pixel `(x, y)` being the byte at `FRAME_BASE + (y*W + x)*3 + c` (red, green, blue for 0, 1, 2):
half 1 from pixel rows `r`, half 2 from pixel rows `r + R`. The other buffer and every byte of host memory are as before,
the tear record is made, and nothing else changes (R77, R156, R392). -/
def Obligations.EncodeframeWritesTheCallersFrame : Prop :=
  ∀ (s : State) (f : FrameStore), s.live = true → configOK s.cfg = true → s.fs = some f →
    (∀ k < s.cfg.w * s.cfg.h * 3, inHostMem s.cfg (s.frameBase.toNat + k) = true) →
    let caller (x y : Nat) : Rgb :=
      ⟨memRead s (s.frameBase.toNat + (y * s.cfg.w + x) * 3), memRead s (s.frameBase.toNat + (y * s.cfg.w + x) * 3 + 1),
        memRead s (s.frameBase.toNat + (y * s.cfg.w + x) * 3 + 2)⟩
    ∃ f' : FrameStore,
      exec .encodeframe s = .next { s with fs := some f', hazard := s.hazard || hwOwns s s.widx } ∧
      bufferOf f' (s.widx + 1) = bufferOf f (s.widx + 1) ∧
      (bufferOf f' s.widx).length = rows s.cfg * 8 * s.cfg.w ∧
      ∀ r j x, r < rows s.cfg → j < 8 → x < s.cfg.w →
        fsRead f' s.widx (widx s.cfg r j (slot x)) =
          some (baseWord s.cfg s.t.toNat s.duty.toNat r j x |||
            rgb1 s.cfg.layout (corrRgb s.cfg (caller x r)) j |||
            rgb2 s.cfg.layout (corrRgb s.cfg (caller x (r + rows s.cfg))) j)

/-- ENCODEFRAME leaves the state that FILL 0, 0, 0 and then SETPIXEL of every pixel of the caller's frame leaves, in any
order, channel `c` of pixel `(x, y)` being the byte at `FRAME_BASE + (y*W + x)*3 + c` (R77, R157). -/
def Obligations.EncodeframeEqualsSetpixelsOverBlack : Prop :=
  ∀ (s : State) (f : FrameStore) (ps : List (Nat × Nat)), s.live = true → configOK s.cfg = true →
    s.fs = some f → (bufferOf f s.widx).length = bufferWords s.cfg → frameOK s = true → coversPanel s.cfg ps →
    let caller (x y : Nat) : Rgb :=
      ⟨memRead s (s.frameBase.toNat + (y * s.cfg.w + x) * 3), memRead s (s.frameBase.toNat + (y * s.cfg.w + x) * 3 + 1),
        memRead s (s.frameBase.toNat + (y * s.cfg.w + x) * 3 + 2)⟩
    ∃ s₁ s₂, exec .encodeframe s = .next s₁ ∧ exec (.fill ⟨0, 0, 0⟩) s = .next s₂ ∧
      setPixels caller ps s₂ = .next s₁

/-- The encoder commands write only the write target, the tear record and, where they fault, FAULT: the other buffer,
DS, host memory and every other register are as before (R155). -/
def Obligations.EncodersWriteOnlyTheTarget : Prop :=
  ∀ (i : Instr) (s s' : State),
    ((∃ x y c, i = .setpixel x y c) ∨ (∃ c, i = .fill c) ∨ i = .encodeframe) → exec i s = .next s' →
    s' = { s with fs := s'.fs, hazard := s'.hazard, fault := s'.fault } ∧
    s'.fs.map (bufferOf · (s.widx + 1)) = s.fs.map (bufferOf · (s.widx + 1)) ∧
    (s.live = true → (i = .encodeframe → frameOK s = true) → s'.fault = s.fault)

/-- TEAR goes from 0 to 1 only in a step that writes a word of a buffer the replay agent owns: an encoder command, or
FUPDATE's second part, while the write target is in HWOWN (R392). That HWOWN is taken before the flip of FUPDATE's own
second part is the model's reading (log entry 18): R392 says only that it is evaluated in that step. -/
def Obligations.TearOnlyFromWritesToAnOwnedBuffer : Prop :=
  ∀ (turn : Turn) (s s' : State), turnStep turn s = .next s' → s.hazard = false → s'.hazard = true →
    hwOwns s s.widx = true ∧ s.dmaRun = true ∧
    ((∃ w, turn = .command w ∧ s.phase = .idle ∧ s.live = true ∧
        ((∃ x y c, decode w = .setpixel x y c ∧ x < s.cfg.w ∧ y < s.cfg.h) ∨ (∃ c, decode w = .fill c) ∨
          decode w = .encodeframe)) ∨
      (turn = .wait ∧ s.phase = .waitF ∧ s.done = true))

/-- While the block is live, the replay agent owns the write target exactly while it replays it (R393). -/
def Obligations.TargetOwnedExactlyWhileReplayed : Prop :=
  ∀ s : State, s.Inv → s.live = true → (hwOwns s s.widx = true ↔ s.cur = s.widx)

/-! ## The swap and sync controller -/

/-- UPDATE of a live block flips both links to the write target, clears DONE and moves the write target; UPDATE.B does
the same and waits. CUR and everything else is as before (R220 to R223). -/
def Obligations.UpdateFlipsToTheWriteTarget : Prop :=
  ∀ s : State, s.live = true →
    exec .update s = .next { s with link0 := s.widx, link1 := s.widx, done := false, widx := s.widx + 1 } ∧
    exec .updateB s = .next
      { s with link0 := s.widx, link1 := s.widx, done := false, widx := s.widx + 1, phase := .waitU }

/-- The wait step: it has no effect while DONE = 0 or no wait holds, and it ends a blocking UPDATE by consuming the
completion (R224). R224 says when the wait step is enabled; that a turn of a wait step that is not enabled leaves the
state as it is, is the model's choice (log entry 2). -/
def Obligations.WaitStepConsumesTheCompletion : Prop :=
  ∀ s : State,
    (s.phase = .idle ∨ s.done = false → turnStep .wait s = .next s) ∧
    (s.phase = .waitU → s.done = true → turnStep .wait s = .next { s with done := false, phase := .idle })

/-- FUPDATE of a live block whose frame is inside HOST_MEM begins its wait. While DONE = 0 the wait step has no effect.
Once DONE = 1, the wait step encodes the caller's frame into the write target as ENCODEFRAME does (R77, R156), flips
to it, clears DONE, moves the write target and ends the command, and changes nothing else but the tear record (R226,
R392). Two clauses are the model's own readings: that the tear record takes HWOWN as it is before this step's own
flip (log entry 18), and that a turn of a wait step that is not enabled leaves the state as it is (log entry 2). -/
def Obligations.FupdateWaitsEncodesAndFlips : Prop :=
  ∀ (s : State) (f : FrameStore), s.live = true → configOK s.cfg = true → s.fs = some f → frameOK s = true →
    let caller (x y : Nat) : Rgb :=
      ⟨memRead s (s.frameBase.toNat + (y * s.cfg.w + x) * 3), memRead s (s.frameBase.toNat + (y * s.cfg.w + x) * 3 + 1),
        memRead s (s.frameBase.toNat + (y * s.cfg.w + x) * 3 + 2)⟩
    exec .fupdate s = .next { s with phase := .waitF } ∧
    (s.done = false → turnStep .wait { s with phase := .waitF } = .next { s with phase := .waitF }) ∧
    (s.done = true → ∃ f' : FrameStore,
      turnStep .wait { s with phase := .waitF } = .next
        { s with
          fs := some f', hazard := s.hazard || hwOwns s s.widx
          link0 := s.widx, link1 := s.widx, done := false, widx := s.widx + 1, phase := .idle } ∧
      bufferOf f' (s.widx + 1) = bufferOf f (s.widx + 1) ∧
      (bufferOf f' s.widx).length = rows s.cfg * 8 * s.cfg.w ∧
      ∀ r j x, r < rows s.cfg → j < 8 → x < s.cfg.w →
        fsRead f' s.widx (widx s.cfg r j (slot x)) =
          some (baseWord s.cfg s.t.toNat s.duty.toNat r j x |||
            rgb1 s.cfg.layout (corrRgb s.cfg (caller x r)) j |||
            rgb2 s.cfg.layout (corrRgb s.cfg (caller x (r + rows s.cfg))) j))

/-- No tearing after a blocking UPDATE: from an invariant state, let UPDATE.B flip to buffer `b`, and let any turns but
power-on reset follow, the wait still holding after each of them. When the wait step then ends the command, CUR = b,
LINK[b] = b, the replay agent owns buffer `b` and no other, and the write target is the other buffer (R225). -/
def Obligations.NoTearingAfterABlockingUpdate : Prop :=
  ∀ (s s₁ s₂ s₃ : State) (turns : List Turn), s.Inv → s.live = true → s.phase = .idle →
    exec .updateB s = .next s₁ → noPowerOn turns = true →
    (∀ ts rest u, turns = ts ++ rest → runTurns ts s₁ = .next u → u.phase = .waitU) →
    runTurns turns s₁ = .next s₂ → s₂.done = true → turnStep .wait s₂ = .next s₃ →
    s₃.phase = .idle ∧ s₃.cur = s.widx ∧ linkOf s₃ s.widx = s.widx ∧ s₃.widx = s.widx + 1 ∧
    (∀ b, hwOwns s₃ b = true ↔ b = s.widx) ∧ hwOwns s₃ s₃.widx = false

/-- No tearing for FUPDATE: at its second part the write target is not owned by the replay agent, which replays the other
buffer and will go on doing so, and no tear is recorded (R227), HWOWN being taken before that step's own flip, which is
the model's reading (log entry 18). -/
def Obligations.FupdateNeverTears : Prop :=
  ∀ s : State, s.Inv → s.phase = .waitF → s.done = true →
    hwOwns s s.widx = false ∧ s.cur = s.widx + 1 ∧ linkOf s s.cur = s.cur ∧
    ∃ s', turnStep .wait s = .next s' ∧ s'.phase = .idle ∧ s'.hazard = s.hazard

/-- A blocking UPDATE returns only after a pass end that follows its own flip: in every run from it to a state with no
wait, some replay step raised the completion (R399). -/
def Obligations.BlockingUpdateReturnsAfterAPassEnd : Prop :=
  ∀ (s s₁ s₂ : State) (turns : List Turn), s.live = true → exec .updateB s = .next s₁ → noPowerOn turns = true →
    runTurns turns s₁ = .next s₂ → s₂.phase = .idle →
    ∃ ts rest u v, turns = ts ++ .replay :: rest ∧ runTurns ts s₁ = .next u ∧ turnStep .replay u = .next v ∧
      u.done = false ∧ v.done = true ∧ v.dpos = 0 ∧ v.wpos = 0

/-- Every wait ends: while a wait holds, at most one pass of replay steps, with no other turn between, raises the
completion, and the wait still holds, so that its step is enabled (R397). -/
def Obligations.EveryWaitEndsWithinAPass : Prop :=
  ∀ s : State, s.Inv → s.phase ≠ .idle →
    ∃ n s', n ≤ passLength s ∧ runTurns (List.replicate n .replay) s = .next s' ∧ s'.done = true ∧
      s'.phase = s.phase

/-- With a weakly fair replay agent every wait comes to be enabled, whatever the host does meanwhile, short of power-on
reset (R396, R397). Turns that are not enabled leave the state as it is, the model's choice (log entry 2). -/
def Obligations.FairReplayEnablesEveryWait : Prop :=
  ∀ (s : State) (turns : Nat → Turn), s.Inv → s.phase ≠ .idle → weaklyFair turns → (∀ n, turns n ≠ .powerOn) →
    ∃ n s', runTurns ((List.range n).map turns) s = .next s' ∧ s'.done = true ∧ s'.phase = s.phase

/-! ## INIT and SHUTDOWN -/

/-- INIT of a block that is not live, where the configuration is accepted, every allocation and `setup` succeed, the plan
finds the transition bit `t`, and no descriptor is too long: the block is live, the replay agent starts on chain 0,
the host owns buffer 1, both buffers are black, and FAULT, HAZARD, FRAME_BASE, OUT and host memory are as before (R230,
R232). One draw of the model's own queue is used up, the model's choice (log entry 12). -/
def Obligations.InitStartsTheBlock : Prop :=
  ∀ (s : State) (t : Nat), s.live = false → configOK s.cfg = true →
    (currentDraw s).allocFs0 = true → (currentDraw s).allocFs1 = true →
    planTransitionBit s.cfg (currentDraw s) = some t →
    max (t + 1) (8 - t - 1) * s.cfg.w * 2 ≤ s.cfg.descMaxBytes →
    (currentDraw s).allocDs0 = true → (currentDraw s).allocDs1 = true → (currentDraw s).allocSignal = true →
    (currentDraw s).setupOk = true →
    ∃ (q : Nat) (f : FrameStore), (q : Int) = s.cfg.brightInit ∧
      exec .init s = .next
        { dropDraw s with
          live := true, t := BitVec.ofNat 3 t, fs := some f, ds := some (buildChains s.cfg t)
          link0 := 0, link1 := 1, widx := 1, dmaRun := true, cur := 0, dpos := 0, wpos := 0
          percent := BitVec.ofNat 7 q, duty := BitVec.ofNat 16 (dutyOf s.cfg q)
          done := false, phase := .idle, code := 0, result := 0 } ∧
      ∀ b r j x, r < rows s.cfg → j < 8 → x < s.cfg.w →
        (bufferOf f b).length = rows s.cfg * 8 * s.cfg.w ∧
        fsRead f b (widx s.cfg r j (slot x)) = some (baseWord s.cfg t (dutyOf s.cfg q) r j x)

/-- INIT of a block that is not live reports the first fatal condition, in the order configuration (4), frame buffers
(1), plan (2), descriptor length (4), descriptor arrays (1), completion signal (1), `setup` (3), and leaves every
register but CODE and RESULT as it was (R231, R340, R341). The configuration check holds exactly where the ten rows of
R344 do; row 1 (DEPTH = 8) and the first half of row 8 hold of every configuration. Besides, one draw of the model's
own queue is used up, also where the configuration check fails first: that is the model's choice (log entry 12). -/
def Obligations.InitReportsTheFirstFailure : Prop :=
  (∀ c : Config, configOK c = true ↔
    depth = 8 ∧
    c.rip = 2 ∧
    (c.h = c.rip * (c.h / c.rip) ∧ 1 ≤ c.h / c.rip ∧ c.h / c.rip ≤ 32) ∧
    (c.w % 2 = 0 ∧ 2 ≤ c.w ∧ c.w ≤ 4096) ∧
    (1 ≤ c.latchNs ∧ 1 ≤ c.descSize) ∧
    (0 ≤ c.minRefreshHz ∧ 0 ≤ c.reservedBytes) ∧
    2 * c.w ≤ c.descMaxBytes ∧
    ((∀ u v : Fin 256, u ≤ v → c.gamma[u].toNat ≤ c.gamma[v].toNat) ∧ c.gamma[0].toNat = 0 ∧
      c.gamma[255].toNat = 255) ∧
    (let l := c.layout
     let positions := [l.r1, l.g1, l.b1, l.r2, l.g2, l.b2, l.lat, l.oe, l.a, l.b, l.c, l.d, l.e]
     positions.Nodup ∧ ∀ p ∈ positions, p ≤ 15) ∧
    (0 ≤ c.prevRow0 ∧ c.prevRow0 ≤ 31 ∧ 0 ≤ c.brightInit ∧ c.brightInit ≤ 100)) ∧
  ∀ s : State, s.live = false →
    let d := currentDraw s
    let failsWith (e : BitVec 4) : Prop := exec .init s = .next { dropDraw s with code := e, result := e.zeroExtend 32 }
    (configOK s.cfg = false → failsWith 4) ∧
    (configOK s.cfg = true → d.allocFs0 = false ∨ d.allocFs1 = false → failsWith 1) ∧
    (configOK s.cfg = true → d.allocFs0 = true → d.allocFs1 = true →
      (planTransitionBit s.cfg d = none → failsWith 2) ∧
      ∀ t, planTransitionBit s.cfg d = some t →
        (s.cfg.descMaxBytes < max (t + 1) (8 - t - 1) * s.cfg.w * 2 → failsWith 4) ∧
        (max (t + 1) (8 - t - 1) * s.cfg.w * 2 ≤ s.cfg.descMaxBytes →
          (d.allocDs0 = false ∨ d.allocDs1 = false ∨ d.allocSignal = false → failsWith 1) ∧
          (d.allocDs0 = true → d.allocDs1 = true → d.allocSignal = true → d.setupOk = false → failsWith 3)))

/-- INIT of a live block raises F_REINIT and changes nothing else (R230, R346). -/
def Obligations.InitWhileLiveRaisesReinit : Prop :=
  ∀ s : State, s.live = true → exec .init s = .next { s with fault := s.fault ||| 0b00100#5 }

/-- SHUTDOWN of a live block stops the replay agent, releases FS and DS and clears the listed registers; CODE, RESULT,
FAULT, HAZARD, FRAME_BASE, OUT and host memory are kept. A SHUTDOWN of a block that is not live changes nothing, so a
second one changes nothing (R240, R241). -/
def Obligations.ShutdownStopsAndIsIdempotent : Prop :=
  (∀ s : State, s.live = true → exec .shutdown s = .next
    { s with
      live := false, dmaRun := false, fs := none, ds := none, t := 0, link0 := 0, link1 := 0, widx := 0
      cur := 0, dpos := 0, wpos := 0, percent := 0, duty := 0, done := false }) ∧
  (∀ s : State, s.live = false → exec .shutdown s = .next s) ∧
  (∀ s s' : State, exec .shutdown s = .next s' → exec .shutdown s' = .next s')

/-! ## The plan builder -/

/-- A transition bit is accepted exactly where its RAM fits the largest free block, its RAM fits the free total less
the reserve, on integers, and its refresh rate is at least the minimum (R185). The search takes the smallest accepted
`t` of `0 .. 7`, and fails only where none is accepted (R186). -/
def Obligations.PlanTakesTheSmallestAcceptedBit : Prop :=
  ∀ (c : Config) (d : InitDraw),
    (∀ t, accept c d t = true ↔
      ramRequired c t ≤ d.largestFree ∧ (ramRequired c t : Int) ≤ (d.totalFree : Int) - c.reservedBytes ∧
        c.minRefreshHz ≤ (refreshRate c t : Int)) ∧
    (∀ t, planTransitionBit c d = some t ↔
      t < 8 ∧ accept c d t = true ∧ ∀ t' < t, accept c d t' = false) ∧
    (planTransitionBit c d = none ↔ ∀ t < 8, accept c d t = false)

/-- Under a configuration that INIT accepts, the RAM and the row time strictly decrease with `t`, the refresh rate does
not decrease, and acceptance is upward closed (R187). -/
def Obligations.AcceptanceIsUpwardClosed : Prop :=
  ∀ (c : Config) (t t' : Nat), configOK c = true → t < t' → t' < 8 →
    ramRequired c t' < ramRequired c t ∧ nsPerRow c t' < nsPerRow c t ∧ refreshRate c t ≤ refreshRate c t' ∧
    ∀ d : InitDraw, accept c d t = true → accept c d t' = true

/-- The cost functions in closed form (R181 to R184, with the DEPTH = 8 of R7). -/
def Obligations.CostFunctionsInClosedForm : Prop :=
  ∀ (c : Config) (t : Nat), t < 8 →
    descriptorsPerRow t = 2 ^ (7 - t) ∧
    ramRequired c t = 2 ^ (7 - t) * rows c * 2 * c.descSize ∧
    nsPerRow c t = c.latchNs * (2 ^ (8 - t) + t - 1) ∧
    refreshRate c t = 1000000000 / (c.latchNs * (2 ^ (8 - t) + t - 1) * rows c)

/-- A chain has R * DPR(T) descriptors, DPR(T) of them for each row in turn, all of its own buffer, and `eof` on the last
alone; the two chains differ only in `buf` (R191). -/
def Obligations.ChainsHaveTheirShape : Prop :=
  ∀ (c : Config) (t : Nat), configOK c = true → t < 8 →
    (∀ b, (buildChain c t b).length = rows c * descriptorsPerRow t) ∧
    (∀ b k d, (buildChain c t b)[k]? = some d →
      d.buf = b ∧ d.off / (8 * c.w) = k / descriptorsPerRow t ∧
      (d.eof = true ↔ k + 1 = rows c * descriptorsPerRow t)) ∧
    buildChain c t 1 = (buildChain c t 0).map fun d => { d with buf := 1 }

/-! ## The replay agent -/

/-- A word step emits the word at slot `WPOS XOR 1` of the descriptor's run and moves the replay position: within the
descriptor, to the next descriptor, or, at the end of the last one, through LINK[CUR] to descriptor 0, raising DONE
whether or not it was up. Everything else is as before (R313, R316). The slot `WPOS XOR 1` is R314's pair swap, which
the spec takes from general knowledge: a choice, log entry 19 (PRESUMED, unsafe). -/
def Obligations.ReplayStepMovesOneWord : Prop :=
  ∀ (s : State) (ds : DescStore) (d : Descriptor) (f : FrameStore) (w : Word), s.dmaRun = true → s.ds = some ds →
    (chainOf ds s.cur)[s.dpos.toNat]? = some d → s.fs = some f →
    fsRead f d.buf (d.off + (s.wpos.toNat ^^^ 1)) = some w →
    (s.wpos.toNat + 1 ≠ d.len / 2 →
      turnStep .replay s = .next { s with out := s.out ++ [w], wpos := s.wpos + 1 }) ∧
    (s.wpos.toNat + 1 = d.len / 2 → d.eof = false →
      turnStep .replay s = .next { s with out := s.out ++ [w], wpos := 0, dpos := s.dpos + 1 }) ∧
    (s.wpos.toNat + 1 = d.len / 2 → d.eof = true →
      turnStep .replay s = .next
        { s with out := s.out ++ [w], wpos := 0, dpos := 0, done := true
                 cur := if s.cur = 0 then s.link0 else s.link1 })

/-- While DMA_RUN = 0 the replay agent has no step, so after SHUTDOWN it emits nothing (R311, R318). That a replay turn
then leaves the state as it is, is the model's choice (log entry 2). -/
def Obligations.ReplayRestsWhileStopped : Prop :=
  (∀ s : State, s.dmaRun = false → turnStep .replay s = .next s) ∧
  (∀ s s' : State, s.live = true → exec .shutdown s = .next s' → turnStep .replay s' = .next s')

/-- One pass of the replay agent, from its start and with no other turn between: it emits, for each row, the row's
bitplane sequence, each bitplane's words in column order, `R * W * (T + 1 + 2^(DEPTH-T) - (DEPTH-T) - 1)` words in all,
then follows LINK[CUR] and raises DONE; nothing else has changed (R193, R316, R319). That the columns of OUT ascend rests
on R314's pair swap, which the spec takes from general knowledge: a choice, log entry 19 (PRESUMED, unsafe). -/
def Obligations.APassEmitsTheWholeFrame : Prop :=
  ∀ s : State, s.Inv → s.live = true → s.dpos = 0 → s.wpos = 0 →
    (passWords s s.cur).length = passLength s ∧
    runTurns (List.replicate (passLength s) .replay) s = .next
      { s with out := s.out ++ passWords s s.cur, cur := linkOf s s.cur, done := true }

/-- The first word emitted after a successful INIT is the base word of column 0 of row 0, bitplane 0: address PREV_ROW0,
OE = 1, LAT = 0 (R386). That the first word out is column 0's rests on R314's pair swap, which the spec takes from
general knowledge: a choice, log entry 19 (PRESUMED, unsafe). -/
def Obligations.FirstWordAfterInit : Prop :=
  ∀ s s₁ : State, s.live = false → exec .init s = .next s₁ → s₁.live = true →
    ∃ s₂ w, turnStep .replay s₁ = .next s₂ ∧ s₂.out = s.out ++ [w] ∧
      w = addrBits s.cfg.layout s.cfg.prevRow0 ||| signalBit s.cfg.layout.oe ∧
      w.getLsbD s.cfg.layout.lat = false

/-- OUT only grows: whatever happens but power-on reset, it stays or gains one word at its end, and only a replay step
of a running agent gains it one (R48, R315). -/
def Obligations.OutputOnlyGrows : Prop :=
  ∀ (turn : Turn) (s s' : State), turn ≠ .powerOn → turnStep turn s = .next s' →
    s'.out = s.out ∨ (turn = .replay ∧ s.dmaRun = true ∧ ∃ w, s'.out = s.out ++ [w])

/-! ## The caller's frame -/

/-- SETFRAMEBASE stores the address, live or not, and changes nothing else (R290). -/
def Obligations.SetframebaseStoresTheAddress : Prop :=
  ∀ (a : BitVec 32) (s : State), exec (.setframebase a) s = .next { s with frameBase := a }

/-- FSETPIXEL of a pixel of the panel, live or not, writes its three channels, uncorrected, to the three bytes of the
pixel; every other byte of host memory is as before, and nothing else changes. Outside the panel it changes nothing
(R292). -/
def Obligations.FsetpixelWritesThreeBytes : Prop :=
  ∀ (s : State) (x y : Nat) (p : Rgb), memWf s = true →
    (∀ k < s.cfg.w * s.cfg.h * 3, inHostMem s.cfg (s.frameBase.toNat + k) = true) →
    (s.cfg.w ≤ x ∨ s.cfg.h ≤ y → exec (.fsetpixel x y p) s = .next s) ∧
    (x < s.cfg.w → y < s.cfg.h → ∃ m, exec (.fsetpixel x y p) s = .next { s with mem := m } ∧
      ∀ a, memRead { s with mem := m } a =
        if a = s.frameBase.toNat + (y * s.cfg.w + x) * 3 then p.r
        else if a = s.frameBase.toNat + (y * s.cfg.w + x) * 3 + 1 then p.g
        else if a = s.frameBase.toNat + (y * s.cfg.w + x) * 3 + 2 then p.b
        else memRead s a)

/-- FFILL, live or not, writes the three channels to every pixel of the caller's frame; every byte outside the frame is
as before, and nothing else changes (R294). -/
def Obligations.FfillWritesEveryPixel : Prop :=
  ∀ (s : State) (p : Rgb), memWf s = true →
    (∀ k < s.cfg.w * s.cfg.h * 3, inHostMem s.cfg (s.frameBase.toNat + k) = true) →
    ∃ m, exec (.ffill p) s = .next { s with mem := m } ∧
      (∀ x y, x < s.cfg.w → y < s.cfg.h →
        memRead { s with mem := m } (s.frameBase.toNat + (y * s.cfg.w + x) * 3) = p.r ∧
        memRead { s with mem := m } (s.frameBase.toNat + (y * s.cfg.w + x) * 3 + 1) = p.g ∧
        memRead { s with mem := m } (s.frameBase.toNat + (y * s.cfg.w + x) * 3 + 2) = p.b) ∧
      ∀ a, a < s.frameBase.toNat ∨ s.frameBase.toNat + s.cfg.w * s.cfg.h * 3 ≤ a →
        memRead { s with mem := m } a = memRead s a

/-- FFILL leaves the state that FSETPIXEL of the same colour at every pixel leaves, in any order (R294). -/
def Obligations.FfillEqualsFsetpixelEverywhere : Prop :=
  ∀ (s : State) (p : Rgb) (ps : List (Nat × Nat)), memWf s = true → frameOK s = true → coversPanel s.cfg ps →
    ∃ s', exec (.ffill p) s = .next s' ∧ setCallerPixels (fun _ _ => p) ps s = .next s'

/-- FCLEAR, live or not, writes 0 to every byte of the caller's frame; every byte outside the frame is as before, and
nothing else changes (R296). -/
def Obligations.FclearZeroesTheFrame : Prop :=
  ∀ s : State, memWf s = true →
    (∀ k < s.cfg.w * s.cfg.h * 3, inHostMem s.cfg (s.frameBase.toNat + k) = true) →
    ∃ m, exec .fclear s = .next { s with mem := m } ∧
      ∀ a, memRead { s with mem := m } a =
        if s.frameBase.toNat ≤ a ∧ a < s.frameBase.toNat + s.cfg.w * s.cfg.h * 3 then 0 else memRead s a

/-- FCLEAR is FFILL 0, 0, 0, in every state whose memory is in canonical form (R296). -/
def Obligations.FclearIsBlackFfill : Prop :=
  ∀ s : State, memWf s = true → exec .fclear s = exec (.ffill ⟨0, 0, 0⟩) s

/-! ## Reset and the whole machine -/

/-- The register window, in every state: each listed field at its bit position, 0 at every other bit of a listed
offset, and 0 at every multiple of 4 that is not listed (R47); GEOM and CFG read a width, a height and a row count that
fit their fields (the other case is the model's choice, log entry 23). After power-on reset, from the reset state and
from a reset in use, every register but GEOM and CFG reads 0 (R381). -/
def Obligations.WindowAfterReset : Prop :=
  (∀ s : State,
    -- STATUS
    ((window s 0x00).extractLsb' 0 1 = BitVec.ofBool s.live ∧
      (window s 0x00).extractLsb' 1 1 = BitVec.ofBool (decide (s.phase ≠ .idle)) ∧
      (window s 0x00).extractLsb' 2 1 = BitVec.ofBool s.dmaRun ∧ (window s 0x00).extractLsb' 3 1 = 0 ∧
      (window s 0x00).extractLsb' 4 4 = s.code ∧ (window s 0x00).extractLsb' 8 24 = 0) ∧
    -- FAULT, HAZARD, RESULT
    ((window s 0x04).extractLsb' 0 5 = s.fault ∧ (window s 0x04).extractLsb' 5 27 = 0) ∧
    ((window s 0x08).extractLsb' 0 1 = BitVec.ofBool s.hazard ∧ (window s 0x08).extractLsb' 1 31 = 0) ∧
    window s 0x0C = s.result ∧
    -- BRIGHT
    ((window s 0x10).extractLsb' 0 7 = s.percent ∧ (window s 0x10).extractLsb' 7 9 = 0 ∧
      (window s 0x10).extractLsb' 16 16 = s.duty) ∧
    -- BUFS
    (((window s 0x14).extractLsb' 0 1).toNat = s.widx.val ∧ ((window s 0x14).extractLsb' 1 1).toNat = s.cur.val ∧
      ((window s 0x14).extractLsb' 2 1).toNat = s.link0.val ∧ ((window s 0x14).extractLsb' 3 1).toNat = s.link1.val ∧
      (window s 0x14).extractLsb' 4 1 = BitVec.ofBool s.done ∧ (window s 0x14).extractLsb' 5 3 = 0 ∧
      (window s 0x14).extractLsb' 8 2 = (match s.phase with | .idle => 0 | .waitU => 1 | .waitF => 2) ∧
      (window s 0x14).extractLsb' 10 22 = 0) ∧
    -- PLAN
    ((window s 0x18).extractLsb' 0 3 = s.t ∧ (window s 0x18).extractLsb' 3 5 = 0 ∧
      ((window s 0x18).extractLsb' 8 8).toNat = (if s.live then descriptorsPerRow s.t.toNat else 0) ∧
      (window s 0x18).extractLsb' 16 16 = 0) ∧
    -- DMAPOS, FRAME_BASE
    ((window s 0x1C).extractLsb' 0 16 = s.dpos ∧ (window s 0x1C).extractLsb' 16 16 = s.wpos) ∧
    window s 0x20 = s.frameBase ∧
    -- GEOM
    ((s.cfg.w < 2 ^ 16 → ((window s 0x24).extractLsb' 0 16).toNat = s.cfg.w) ∧
      (s.cfg.h < 2 ^ 16 → ((window s 0x24).extractLsb' 16 16).toNat = s.cfg.h)) ∧
    -- CFG
    ((window s 0x28).extractLsb' 0 2 = (match s.cfg.corrMode with | .none => 0 | .strict => 1 | .modified => 2) ∧
      (window s 0x28).extractLsb' 2 6 = 0 ∧ (window s 0x28).extractLsb' 8 8 = 8 ∧
      (s.cfg.rip < 2 ^ 8 → ((window s 0x28).extractLsb' 16 8).toNat = s.cfg.rip) ∧
      (window s 0x28).extractLsb' 24 8 = 0) ∧
    -- offsets that are not listed
    ∀ off, off % 4 = 0 → 0x2C ≤ off → window s off = 0) ∧
  ∀ s : State, s = State.reset ∨ (∃ u, turnStep .powerOn u = .next s) →
    ∀ off ∈ [0x00, 0x04, 0x08, 0x0C, 0x10, 0x14, 0x18, 0x1C, 0x20], window s off = 0

/-- Power-on reset in use leaves every byte of host memory, stops the replay agent, and leaves FS and DS absent and OUT
empty (R380, R382). That power-on reset is a turn that may come at any time is the model's reading (log entry 11). -/
def Obligations.PowerOnResetKeepsHostMemory : Prop :=
  ∀ s : State, ∃ s', turnStep .powerOn s = .next s' ∧ s'.live = false ∧ s'.dmaRun = false ∧ s'.fs = none ∧
    s'.ds = none ∧ s'.out = [] ∧ s'.fault = 0 ∧ s'.hazard = false ∧ ∀ a, memRead s' a = memRead s a

/-- No step changes the configuration (R31). -/
def Obligations.ConfigurationNeverChanges : Prop :=
  ∀ s s' : State, step s = .next s' → s'.cfg = s.cfg

/-- The invariant holds of the reset state. -/
def Obligations.InvariantHoldsAtReset : Prop := State.reset.Inv

/-- Every step keeps the invariant: host memory stays in canonical form, the stores whole and their words' unused bits 0,
the replay position inside its chain, the percent and duty legal, the links and the completion consistent, and an idle
block empty. -/
def Obligations.EveryStepKeepsTheInvariant : Prop :=
  ∀ s s' : State, s.Inv → step s = .next s' → s'.Inv

/-- In an invariant state every step answers a next state: no command word, wait step, replay step or reset ends in a
fault or a refusal of the model, and the replay agent never reads a word or descriptor that does not exist (R233, R352). -/
def Obligations.EveryStepAnswersANextState : Prop :=
  ∀ s : State, s.Inv → ∃ s', step s = .next s'
end

