-- ==== Sys2Proof/Laws/State.lean ====
section
/-! SUPPORT. What each named update of the state leaves in each field. -/

namespace Sys2Proof.Machine

@[simp] theorem raiseFault_cfg (f : FaultBit) (s : State) : (raiseFault f s).cfg = s.cfg := rfl
@[simp] theorem raiseFault_live (f : FaultBit) (s : State) : (raiseFault f s).live = s.live := rfl
@[simp] theorem raiseFault_t (f : FaultBit) (s : State) : (raiseFault f s).t = s.t := rfl
@[simp] theorem raiseFault_fs (f : FaultBit) (s : State) : (raiseFault f s).fs = s.fs := rfl
@[simp] theorem raiseFault_ds (f : FaultBit) (s : State) : (raiseFault f s).ds = s.ds := rfl
@[simp] theorem raiseFault_link0 (f : FaultBit) (s : State) : (raiseFault f s).link0 = s.link0 := rfl
@[simp] theorem raiseFault_link1 (f : FaultBit) (s : State) : (raiseFault f s).link1 = s.link1 := rfl
@[simp] theorem raiseFault_widx (f : FaultBit) (s : State) : (raiseFault f s).widx = s.widx := rfl
@[simp] theorem raiseFault_dmaRun (f : FaultBit) (s : State) : (raiseFault f s).dmaRun = s.dmaRun := rfl
@[simp] theorem raiseFault_cur (f : FaultBit) (s : State) : (raiseFault f s).cur = s.cur := rfl
@[simp] theorem raiseFault_dpos (f : FaultBit) (s : State) : (raiseFault f s).dpos = s.dpos := rfl
@[simp] theorem raiseFault_wpos (f : FaultBit) (s : State) : (raiseFault f s).wpos = s.wpos := rfl
@[simp] theorem raiseFault_percent (f : FaultBit) (s : State) : (raiseFault f s).percent = s.percent := rfl
@[simp] theorem raiseFault_duty (f : FaultBit) (s : State) : (raiseFault f s).duty = s.duty := rfl
@[simp] theorem raiseFault_done (f : FaultBit) (s : State) : (raiseFault f s).done = s.done := rfl
@[simp] theorem raiseFault_phase (f : FaultBit) (s : State) : (raiseFault f s).phase = s.phase := rfl
@[simp] theorem raiseFault_fault (f : FaultBit) (s : State) : (raiseFault f s).fault = s.fault ||| faultMask f := rfl
@[simp] theorem raiseFault_hazard (f : FaultBit) (s : State) : (raiseFault f s).hazard = s.hazard := rfl
@[simp] theorem raiseFault_code (f : FaultBit) (s : State) : (raiseFault f s).code = s.code := rfl
@[simp] theorem raiseFault_result (f : FaultBit) (s : State) : (raiseFault f s).result = s.result := rfl
@[simp] theorem raiseFault_frameBase (f : FaultBit) (s : State) : (raiseFault f s).frameBase = s.frameBase := rfl
@[simp] theorem raiseFault_out (f : FaultBit) (s : State) : (raiseFault f s).out = s.out := rfl
@[simp] theorem raiseFault_mem (f : FaultBit) (s : State) : (raiseFault f s).mem = s.mem := rfl
@[simp] theorem raiseFault_turns (f : FaultBit) (s : State) : (raiseFault f s).turns = s.turns := rfl
@[simp] theorem raiseFault_turnCount (f : FaultBit) (s : State) : (raiseFault f s).turnCount = s.turnCount := rfl
@[simp] theorem raiseFault_draws (f : FaultBit) (s : State) : (raiseFault f s).draws = s.draws := rfl
@[simp] theorem raiseFault_drawCount (f : FaultBit) (s : State) : (raiseFault f s).drawCount = s.drawCount := rfl

@[simp] theorem recordTear_cfg (s : State) : (recordTear s).cfg = s.cfg := rfl
@[simp] theorem recordTear_live (s : State) : (recordTear s).live = s.live := rfl
@[simp] theorem recordTear_t (s : State) : (recordTear s).t = s.t := rfl
@[simp] theorem recordTear_fs (s : State) : (recordTear s).fs = s.fs := rfl
@[simp] theorem recordTear_ds (s : State) : (recordTear s).ds = s.ds := rfl
@[simp] theorem recordTear_link0 (s : State) : (recordTear s).link0 = s.link0 := rfl
@[simp] theorem recordTear_link1 (s : State) : (recordTear s).link1 = s.link1 := rfl
@[simp] theorem recordTear_widx (s : State) : (recordTear s).widx = s.widx := rfl
@[simp] theorem recordTear_dmaRun (s : State) : (recordTear s).dmaRun = s.dmaRun := rfl
@[simp] theorem recordTear_cur (s : State) : (recordTear s).cur = s.cur := rfl
@[simp] theorem recordTear_dpos (s : State) : (recordTear s).dpos = s.dpos := rfl
@[simp] theorem recordTear_wpos (s : State) : (recordTear s).wpos = s.wpos := rfl
@[simp] theorem recordTear_percent (s : State) : (recordTear s).percent = s.percent := rfl
@[simp] theorem recordTear_duty (s : State) : (recordTear s).duty = s.duty := rfl
@[simp] theorem recordTear_done (s : State) : (recordTear s).done = s.done := rfl
@[simp] theorem recordTear_phase (s : State) : (recordTear s).phase = s.phase := rfl
@[simp] theorem recordTear_fault (s : State) : (recordTear s).fault = s.fault := rfl
@[simp] theorem recordTear_hazard (s : State) : (recordTear s).hazard = (s.hazard || hwOwns s s.widx) := rfl
@[simp] theorem recordTear_code (s : State) : (recordTear s).code = s.code := rfl
@[simp] theorem recordTear_result (s : State) : (recordTear s).result = s.result := rfl
@[simp] theorem recordTear_frameBase (s : State) : (recordTear s).frameBase = s.frameBase := rfl
@[simp] theorem recordTear_out (s : State) : (recordTear s).out = s.out := rfl
@[simp] theorem recordTear_mem (s : State) : (recordTear s).mem = s.mem := rfl
@[simp] theorem recordTear_turns (s : State) : (recordTear s).turns = s.turns := rfl
@[simp] theorem recordTear_turnCount (s : State) : (recordTear s).turnCount = s.turnCount := rfl
@[simp] theorem recordTear_draws (s : State) : (recordTear s).draws = s.draws := rfl
@[simp] theorem recordTear_drawCount (s : State) : (recordTear s).drawCount = s.drawCount := rfl

@[simp] theorem memWrite_cfg (a : Nat) (v : Byte) (s : State) : (memWrite a v s).cfg = s.cfg := rfl
@[simp] theorem memWrite_live (a : Nat) (v : Byte) (s : State) : (memWrite a v s).live = s.live := rfl
@[simp] theorem memWrite_t (a : Nat) (v : Byte) (s : State) : (memWrite a v s).t = s.t := rfl
@[simp] theorem memWrite_fs (a : Nat) (v : Byte) (s : State) : (memWrite a v s).fs = s.fs := rfl
@[simp] theorem memWrite_ds (a : Nat) (v : Byte) (s : State) : (memWrite a v s).ds = s.ds := rfl
@[simp] theorem memWrite_link0 (a : Nat) (v : Byte) (s : State) : (memWrite a v s).link0 = s.link0 := rfl
@[simp] theorem memWrite_link1 (a : Nat) (v : Byte) (s : State) : (memWrite a v s).link1 = s.link1 := rfl
@[simp] theorem memWrite_widx (a : Nat) (v : Byte) (s : State) : (memWrite a v s).widx = s.widx := rfl
@[simp] theorem memWrite_dmaRun (a : Nat) (v : Byte) (s : State) : (memWrite a v s).dmaRun = s.dmaRun := rfl
@[simp] theorem memWrite_cur (a : Nat) (v : Byte) (s : State) : (memWrite a v s).cur = s.cur := rfl
@[simp] theorem memWrite_dpos (a : Nat) (v : Byte) (s : State) : (memWrite a v s).dpos = s.dpos := rfl
@[simp] theorem memWrite_wpos (a : Nat) (v : Byte) (s : State) : (memWrite a v s).wpos = s.wpos := rfl
@[simp] theorem memWrite_percent (a : Nat) (v : Byte) (s : State) : (memWrite a v s).percent = s.percent := rfl
@[simp] theorem memWrite_duty (a : Nat) (v : Byte) (s : State) : (memWrite a v s).duty = s.duty := rfl
@[simp] theorem memWrite_done (a : Nat) (v : Byte) (s : State) : (memWrite a v s).done = s.done := rfl
@[simp] theorem memWrite_phase (a : Nat) (v : Byte) (s : State) : (memWrite a v s).phase = s.phase := rfl
@[simp] theorem memWrite_fault (a : Nat) (v : Byte) (s : State) : (memWrite a v s).fault = s.fault := rfl
@[simp] theorem memWrite_hazard (a : Nat) (v : Byte) (s : State) : (memWrite a v s).hazard = s.hazard := rfl
@[simp] theorem memWrite_code (a : Nat) (v : Byte) (s : State) : (memWrite a v s).code = s.code := rfl
@[simp] theorem memWrite_result (a : Nat) (v : Byte) (s : State) : (memWrite a v s).result = s.result := rfl
@[simp] theorem memWrite_frameBase (a : Nat) (v : Byte) (s : State) : (memWrite a v s).frameBase = s.frameBase := rfl
@[simp] theorem memWrite_out (a : Nat) (v : Byte) (s : State) : (memWrite a v s).out = s.out := rfl
@[simp] theorem memWrite_mem (a : Nat) (v : Byte) (s : State) : (memWrite a v s).mem = Memory.write (hostInit s.cfg) s.mem a v := rfl
@[simp] theorem memWrite_turns (a : Nat) (v : Byte) (s : State) : (memWrite a v s).turns = s.turns := rfl
@[simp] theorem memWrite_turnCount (a : Nat) (v : Byte) (s : State) : (memWrite a v s).turnCount = s.turnCount := rfl
@[simp] theorem memWrite_draws (a : Nat) (v : Byte) (s : State) : (memWrite a v s).draws = s.draws := rfl
@[simp] theorem memWrite_drawCount (a : Nat) (v : Byte) (s : State) : (memWrite a v s).drawCount = s.drawCount := rfl

@[simp] theorem flipToBuffer_cfg (b : BufIdx) (s : State) : (flipToBuffer b s).cfg = s.cfg := rfl
@[simp] theorem flipToBuffer_live (b : BufIdx) (s : State) : (flipToBuffer b s).live = s.live := rfl
@[simp] theorem flipToBuffer_t (b : BufIdx) (s : State) : (flipToBuffer b s).t = s.t := rfl
@[simp] theorem flipToBuffer_fs (b : BufIdx) (s : State) : (flipToBuffer b s).fs = s.fs := rfl
@[simp] theorem flipToBuffer_ds (b : BufIdx) (s : State) : (flipToBuffer b s).ds = s.ds := rfl
@[simp] theorem flipToBuffer_link0 (b : BufIdx) (s : State) : (flipToBuffer b s).link0 = b := rfl
@[simp] theorem flipToBuffer_link1 (b : BufIdx) (s : State) : (flipToBuffer b s).link1 = b := rfl
@[simp] theorem flipToBuffer_widx (b : BufIdx) (s : State) : (flipToBuffer b s).widx = s.widx := rfl
@[simp] theorem flipToBuffer_dmaRun (b : BufIdx) (s : State) : (flipToBuffer b s).dmaRun = s.dmaRun := rfl
@[simp] theorem flipToBuffer_cur (b : BufIdx) (s : State) : (flipToBuffer b s).cur = s.cur := rfl
@[simp] theorem flipToBuffer_dpos (b : BufIdx) (s : State) : (flipToBuffer b s).dpos = s.dpos := rfl
@[simp] theorem flipToBuffer_wpos (b : BufIdx) (s : State) : (flipToBuffer b s).wpos = s.wpos := rfl
@[simp] theorem flipToBuffer_percent (b : BufIdx) (s : State) : (flipToBuffer b s).percent = s.percent := rfl
@[simp] theorem flipToBuffer_duty (b : BufIdx) (s : State) : (flipToBuffer b s).duty = s.duty := rfl
@[simp] theorem flipToBuffer_done (b : BufIdx) (s : State) : (flipToBuffer b s).done = s.done := rfl
@[simp] theorem flipToBuffer_phase (b : BufIdx) (s : State) : (flipToBuffer b s).phase = s.phase := rfl
@[simp] theorem flipToBuffer_fault (b : BufIdx) (s : State) : (flipToBuffer b s).fault = s.fault := rfl
@[simp] theorem flipToBuffer_hazard (b : BufIdx) (s : State) : (flipToBuffer b s).hazard = s.hazard := rfl
@[simp] theorem flipToBuffer_code (b : BufIdx) (s : State) : (flipToBuffer b s).code = s.code := rfl
@[simp] theorem flipToBuffer_result (b : BufIdx) (s : State) : (flipToBuffer b s).result = s.result := rfl
@[simp] theorem flipToBuffer_frameBase (b : BufIdx) (s : State) : (flipToBuffer b s).frameBase = s.frameBase := rfl
@[simp] theorem flipToBuffer_out (b : BufIdx) (s : State) : (flipToBuffer b s).out = s.out := rfl
@[simp] theorem flipToBuffer_mem (b : BufIdx) (s : State) : (flipToBuffer b s).mem = s.mem := rfl
@[simp] theorem flipToBuffer_turns (b : BufIdx) (s : State) : (flipToBuffer b s).turns = s.turns := rfl
@[simp] theorem flipToBuffer_turnCount (b : BufIdx) (s : State) : (flipToBuffer b s).turnCount = s.turnCount := rfl
@[simp] theorem flipToBuffer_draws (b : BufIdx) (s : State) : (flipToBuffer b s).draws = s.draws := rfl
@[simp] theorem flipToBuffer_drawCount (b : BufIdx) (s : State) : (flipToBuffer b s).drawCount = s.drawCount := rfl

@[simp] theorem flipAndAdvance_cfg (s : State) : (flipAndAdvance s).cfg = s.cfg := rfl
@[simp] theorem flipAndAdvance_live (s : State) : (flipAndAdvance s).live = s.live := rfl
@[simp] theorem flipAndAdvance_t (s : State) : (flipAndAdvance s).t = s.t := rfl
@[simp] theorem flipAndAdvance_fs (s : State) : (flipAndAdvance s).fs = s.fs := rfl
@[simp] theorem flipAndAdvance_ds (s : State) : (flipAndAdvance s).ds = s.ds := rfl
@[simp] theorem flipAndAdvance_link0 (s : State) : (flipAndAdvance s).link0 = s.widx := rfl
@[simp] theorem flipAndAdvance_link1 (s : State) : (flipAndAdvance s).link1 = s.widx := rfl
@[simp] theorem flipAndAdvance_widx (s : State) : (flipAndAdvance s).widx = s.widx + 1 := rfl
@[simp] theorem flipAndAdvance_dmaRun (s : State) : (flipAndAdvance s).dmaRun = s.dmaRun := rfl
@[simp] theorem flipAndAdvance_cur (s : State) : (flipAndAdvance s).cur = s.cur := rfl
@[simp] theorem flipAndAdvance_dpos (s : State) : (flipAndAdvance s).dpos = s.dpos := rfl
@[simp] theorem flipAndAdvance_wpos (s : State) : (flipAndAdvance s).wpos = s.wpos := rfl
@[simp] theorem flipAndAdvance_percent (s : State) : (flipAndAdvance s).percent = s.percent := rfl
@[simp] theorem flipAndAdvance_duty (s : State) : (flipAndAdvance s).duty = s.duty := rfl
@[simp] theorem flipAndAdvance_done (s : State) : (flipAndAdvance s).done = false := rfl
@[simp] theorem flipAndAdvance_phase (s : State) : (flipAndAdvance s).phase = s.phase := rfl
@[simp] theorem flipAndAdvance_fault (s : State) : (flipAndAdvance s).fault = s.fault := rfl
@[simp] theorem flipAndAdvance_hazard (s : State) : (flipAndAdvance s).hazard = s.hazard := rfl
@[simp] theorem flipAndAdvance_code (s : State) : (flipAndAdvance s).code = s.code := rfl
@[simp] theorem flipAndAdvance_result (s : State) : (flipAndAdvance s).result = s.result := rfl
@[simp] theorem flipAndAdvance_frameBase (s : State) : (flipAndAdvance s).frameBase = s.frameBase := rfl
@[simp] theorem flipAndAdvance_out (s : State) : (flipAndAdvance s).out = s.out := rfl
@[simp] theorem flipAndAdvance_mem (s : State) : (flipAndAdvance s).mem = s.mem := rfl
@[simp] theorem flipAndAdvance_turns (s : State) : (flipAndAdvance s).turns = s.turns := rfl
@[simp] theorem flipAndAdvance_turnCount (s : State) : (flipAndAdvance s).turnCount = s.turnCount := rfl
@[simp] theorem flipAndAdvance_draws (s : State) : (flipAndAdvance s).draws = s.draws := rfl
@[simp] theorem flipAndAdvance_drawCount (s : State) : (flipAndAdvance s).drawCount = s.drawCount := rfl

@[simp] theorem setPercent_cfg (p : Nat) (s : State) : (setPercent p s).cfg = s.cfg := rfl
@[simp] theorem setPercent_live (p : Nat) (s : State) : (setPercent p s).live = s.live := rfl
@[simp] theorem setPercent_t (p : Nat) (s : State) : (setPercent p s).t = s.t := rfl
@[simp] theorem setPercent_fs (p : Nat) (s : State) : (setPercent p s).fs = s.fs := rfl
@[simp] theorem setPercent_ds (p : Nat) (s : State) : (setPercent p s).ds = s.ds := rfl
@[simp] theorem setPercent_link0 (p : Nat) (s : State) : (setPercent p s).link0 = s.link0 := rfl
@[simp] theorem setPercent_link1 (p : Nat) (s : State) : (setPercent p s).link1 = s.link1 := rfl
@[simp] theorem setPercent_widx (p : Nat) (s : State) : (setPercent p s).widx = s.widx := rfl
@[simp] theorem setPercent_dmaRun (p : Nat) (s : State) : (setPercent p s).dmaRun = s.dmaRun := rfl
@[simp] theorem setPercent_cur (p : Nat) (s : State) : (setPercent p s).cur = s.cur := rfl
@[simp] theorem setPercent_dpos (p : Nat) (s : State) : (setPercent p s).dpos = s.dpos := rfl
@[simp] theorem setPercent_wpos (p : Nat) (s : State) : (setPercent p s).wpos = s.wpos := rfl
@[simp] theorem setPercent_percent (p : Nat) (s : State) : (setPercent p s).percent = BitVec.ofNat 7 p := rfl
@[simp] theorem setPercent_duty (p : Nat) (s : State) : (setPercent p s).duty = BitVec.ofNat 16 (dutyOf s.cfg p) := rfl
@[simp] theorem setPercent_done (p : Nat) (s : State) : (setPercent p s).done = s.done := rfl
@[simp] theorem setPercent_phase (p : Nat) (s : State) : (setPercent p s).phase = s.phase := rfl
@[simp] theorem setPercent_fault (p : Nat) (s : State) : (setPercent p s).fault = s.fault := rfl
@[simp] theorem setPercent_hazard (p : Nat) (s : State) : (setPercent p s).hazard = s.hazard := rfl
@[simp] theorem setPercent_code (p : Nat) (s : State) : (setPercent p s).code = s.code := rfl
@[simp] theorem setPercent_result (p : Nat) (s : State) : (setPercent p s).result = s.result := rfl
@[simp] theorem setPercent_frameBase (p : Nat) (s : State) : (setPercent p s).frameBase = s.frameBase := rfl
@[simp] theorem setPercent_out (p : Nat) (s : State) : (setPercent p s).out = s.out := rfl
@[simp] theorem setPercent_mem (p : Nat) (s : State) : (setPercent p s).mem = s.mem := rfl
@[simp] theorem setPercent_turns (p : Nat) (s : State) : (setPercent p s).turns = s.turns := rfl
@[simp] theorem setPercent_turnCount (p : Nat) (s : State) : (setPercent p s).turnCount = s.turnCount := rfl
@[simp] theorem setPercent_draws (p : Nat) (s : State) : (setPercent p s).draws = s.draws := rfl
@[simp] theorem setPercent_drawCount (p : Nat) (s : State) : (setPercent p s).drawCount = s.drawCount := rfl

@[simp] theorem failInit_cfg (e : InitCode) (s : State) : (failInit e s).cfg = s.cfg := rfl
@[simp] theorem failInit_live (e : InitCode) (s : State) : (failInit e s).live = s.live := rfl
@[simp] theorem failInit_t (e : InitCode) (s : State) : (failInit e s).t = s.t := rfl
@[simp] theorem failInit_fs (e : InitCode) (s : State) : (failInit e s).fs = s.fs := rfl
@[simp] theorem failInit_ds (e : InitCode) (s : State) : (failInit e s).ds = s.ds := rfl
@[simp] theorem failInit_link0 (e : InitCode) (s : State) : (failInit e s).link0 = s.link0 := rfl
@[simp] theorem failInit_link1 (e : InitCode) (s : State) : (failInit e s).link1 = s.link1 := rfl
@[simp] theorem failInit_widx (e : InitCode) (s : State) : (failInit e s).widx = s.widx := rfl
@[simp] theorem failInit_dmaRun (e : InitCode) (s : State) : (failInit e s).dmaRun = s.dmaRun := rfl
@[simp] theorem failInit_cur (e : InitCode) (s : State) : (failInit e s).cur = s.cur := rfl
@[simp] theorem failInit_dpos (e : InitCode) (s : State) : (failInit e s).dpos = s.dpos := rfl
@[simp] theorem failInit_wpos (e : InitCode) (s : State) : (failInit e s).wpos = s.wpos := rfl
@[simp] theorem failInit_percent (e : InitCode) (s : State) : (failInit e s).percent = s.percent := rfl
@[simp] theorem failInit_duty (e : InitCode) (s : State) : (failInit e s).duty = s.duty := rfl
@[simp] theorem failInit_done (e : InitCode) (s : State) : (failInit e s).done = s.done := rfl
@[simp] theorem failInit_phase (e : InitCode) (s : State) : (failInit e s).phase = s.phase := rfl
@[simp] theorem failInit_fault (e : InitCode) (s : State) : (failInit e s).fault = s.fault := rfl
@[simp] theorem failInit_hazard (e : InitCode) (s : State) : (failInit e s).hazard = s.hazard := rfl
@[simp] theorem failInit_code (e : InitCode) (s : State) : (failInit e s).code = codeBits e := rfl
@[simp] theorem failInit_result (e : InitCode) (s : State) : (failInit e s).result = (codeBits e).zeroExtend 32 := rfl
@[simp] theorem failInit_frameBase (e : InitCode) (s : State) : (failInit e s).frameBase = s.frameBase := rfl
@[simp] theorem failInit_out (e : InitCode) (s : State) : (failInit e s).out = s.out := rfl
@[simp] theorem failInit_mem (e : InitCode) (s : State) : (failInit e s).mem = s.mem := rfl
@[simp] theorem failInit_turns (e : InitCode) (s : State) : (failInit e s).turns = s.turns := rfl
@[simp] theorem failInit_turnCount (e : InitCode) (s : State) : (failInit e s).turnCount = s.turnCount := rfl
@[simp] theorem failInit_draws (e : InitCode) (s : State) : (failInit e s).draws = s.draws := rfl
@[simp] theorem failInit_drawCount (e : InitCode) (s : State) : (failInit e s).drawCount = s.drawCount := rfl

@[simp] theorem stopLive_cfg (s : State) : (stopLive s).cfg = s.cfg := rfl
@[simp] theorem stopLive_live (s : State) : (stopLive s).live = false := rfl
@[simp] theorem stopLive_t (s : State) : (stopLive s).t = 0 := rfl
@[simp] theorem stopLive_fs (s : State) : (stopLive s).fs = none := rfl
@[simp] theorem stopLive_ds (s : State) : (stopLive s).ds = none := rfl
@[simp] theorem stopLive_link0 (s : State) : (stopLive s).link0 = 0 := rfl
@[simp] theorem stopLive_link1 (s : State) : (stopLive s).link1 = 0 := rfl
@[simp] theorem stopLive_widx (s : State) : (stopLive s).widx = 0 := rfl
@[simp] theorem stopLive_dmaRun (s : State) : (stopLive s).dmaRun = false := rfl
@[simp] theorem stopLive_cur (s : State) : (stopLive s).cur = 0 := rfl
@[simp] theorem stopLive_dpos (s : State) : (stopLive s).dpos = 0 := rfl
@[simp] theorem stopLive_wpos (s : State) : (stopLive s).wpos = 0 := rfl
@[simp] theorem stopLive_percent (s : State) : (stopLive s).percent = 0 := rfl
@[simp] theorem stopLive_duty (s : State) : (stopLive s).duty = 0 := rfl
@[simp] theorem stopLive_done (s : State) : (stopLive s).done = false := rfl
@[simp] theorem stopLive_phase (s : State) : (stopLive s).phase = s.phase := rfl
@[simp] theorem stopLive_fault (s : State) : (stopLive s).fault = s.fault := rfl
@[simp] theorem stopLive_hazard (s : State) : (stopLive s).hazard = s.hazard := rfl
@[simp] theorem stopLive_code (s : State) : (stopLive s).code = s.code := rfl
@[simp] theorem stopLive_result (s : State) : (stopLive s).result = s.result := rfl
@[simp] theorem stopLive_frameBase (s : State) : (stopLive s).frameBase = s.frameBase := rfl
@[simp] theorem stopLive_out (s : State) : (stopLive s).out = s.out := rfl
@[simp] theorem stopLive_mem (s : State) : (stopLive s).mem = s.mem := rfl
@[simp] theorem stopLive_turns (s : State) : (stopLive s).turns = s.turns := rfl
@[simp] theorem stopLive_turnCount (s : State) : (stopLive s).turnCount = s.turnCount := rfl
@[simp] theorem stopLive_draws (s : State) : (stopLive s).draws = s.draws := rfl
@[simp] theorem stopLive_drawCount (s : State) : (stopLive s).drawCount = s.drawCount := rfl

@[simp] theorem emit_cfg (w : Word) (s : State) : (emit w s).cfg = s.cfg := rfl
@[simp] theorem emit_live (w : Word) (s : State) : (emit w s).live = s.live := rfl
@[simp] theorem emit_t (w : Word) (s : State) : (emit w s).t = s.t := rfl
@[simp] theorem emit_fs (w : Word) (s : State) : (emit w s).fs = s.fs := rfl
@[simp] theorem emit_ds (w : Word) (s : State) : (emit w s).ds = s.ds := rfl
@[simp] theorem emit_link0 (w : Word) (s : State) : (emit w s).link0 = s.link0 := rfl
@[simp] theorem emit_link1 (w : Word) (s : State) : (emit w s).link1 = s.link1 := rfl
@[simp] theorem emit_widx (w : Word) (s : State) : (emit w s).widx = s.widx := rfl
@[simp] theorem emit_dmaRun (w : Word) (s : State) : (emit w s).dmaRun = s.dmaRun := rfl
@[simp] theorem emit_cur (w : Word) (s : State) : (emit w s).cur = s.cur := rfl
@[simp] theorem emit_dpos (w : Word) (s : State) : (emit w s).dpos = s.dpos := rfl
@[simp] theorem emit_wpos (w : Word) (s : State) : (emit w s).wpos = s.wpos := rfl
@[simp] theorem emit_percent (w : Word) (s : State) : (emit w s).percent = s.percent := rfl
@[simp] theorem emit_duty (w : Word) (s : State) : (emit w s).duty = s.duty := rfl
@[simp] theorem emit_done (w : Word) (s : State) : (emit w s).done = s.done := rfl
@[simp] theorem emit_phase (w : Word) (s : State) : (emit w s).phase = s.phase := rfl
@[simp] theorem emit_fault (w : Word) (s : State) : (emit w s).fault = s.fault := rfl
@[simp] theorem emit_hazard (w : Word) (s : State) : (emit w s).hazard = s.hazard := rfl
@[simp] theorem emit_code (w : Word) (s : State) : (emit w s).code = s.code := rfl
@[simp] theorem emit_result (w : Word) (s : State) : (emit w s).result = s.result := rfl
@[simp] theorem emit_frameBase (w : Word) (s : State) : (emit w s).frameBase = s.frameBase := rfl
@[simp] theorem emit_out (w : Word) (s : State) : (emit w s).out = s.out ++ [w] := rfl
@[simp] theorem emit_mem (w : Word) (s : State) : (emit w s).mem = s.mem := rfl
@[simp] theorem emit_turns (w : Word) (s : State) : (emit w s).turns = s.turns := rfl
@[simp] theorem emit_turnCount (w : Word) (s : State) : (emit w s).turnCount = s.turnCount := rfl
@[simp] theorem emit_draws (w : Word) (s : State) : (emit w s).draws = s.draws := rfl
@[simp] theorem emit_drawCount (w : Word) (s : State) : (emit w s).drawCount = s.drawCount := rfl

@[simp] theorem passEnd_cfg (s : State) : (passEnd s).cfg = s.cfg := rfl
@[simp] theorem passEnd_live (s : State) : (passEnd s).live = s.live := rfl
@[simp] theorem passEnd_t (s : State) : (passEnd s).t = s.t := rfl
@[simp] theorem passEnd_fs (s : State) : (passEnd s).fs = s.fs := rfl
@[simp] theorem passEnd_ds (s : State) : (passEnd s).ds = s.ds := rfl
@[simp] theorem passEnd_link0 (s : State) : (passEnd s).link0 = s.link0 := rfl
@[simp] theorem passEnd_link1 (s : State) : (passEnd s).link1 = s.link1 := rfl
@[simp] theorem passEnd_widx (s : State) : (passEnd s).widx = s.widx := rfl
@[simp] theorem passEnd_dmaRun (s : State) : (passEnd s).dmaRun = s.dmaRun := rfl
@[simp] theorem passEnd_cur (s : State) : (passEnd s).cur = linkOf s s.cur := rfl
@[simp] theorem passEnd_dpos (s : State) : (passEnd s).dpos = 0 := rfl
@[simp] theorem passEnd_wpos (s : State) : (passEnd s).wpos = s.wpos := rfl
@[simp] theorem passEnd_percent (s : State) : (passEnd s).percent = s.percent := rfl
@[simp] theorem passEnd_duty (s : State) : (passEnd s).duty = s.duty := rfl
@[simp] theorem passEnd_done (s : State) : (passEnd s).done = true := rfl
@[simp] theorem passEnd_phase (s : State) : (passEnd s).phase = s.phase := rfl
@[simp] theorem passEnd_fault (s : State) : (passEnd s).fault = s.fault := rfl
@[simp] theorem passEnd_hazard (s : State) : (passEnd s).hazard = s.hazard := rfl
@[simp] theorem passEnd_code (s : State) : (passEnd s).code = s.code := rfl
@[simp] theorem passEnd_result (s : State) : (passEnd s).result = s.result := rfl
@[simp] theorem passEnd_frameBase (s : State) : (passEnd s).frameBase = s.frameBase := rfl
@[simp] theorem passEnd_out (s : State) : (passEnd s).out = s.out := rfl
@[simp] theorem passEnd_mem (s : State) : (passEnd s).mem = s.mem := rfl
@[simp] theorem passEnd_turns (s : State) : (passEnd s).turns = s.turns := rfl
@[simp] theorem passEnd_turnCount (s : State) : (passEnd s).turnCount = s.turnCount := rfl
@[simp] theorem passEnd_draws (s : State) : (passEnd s).draws = s.draws := rfl
@[simp] theorem passEnd_drawCount (s : State) : (passEnd s).drawCount = s.drawCount := rfl

@[simp] theorem powerOn_cfg (s : State) : (powerOn s).cfg = s.cfg := rfl
@[simp] theorem powerOn_live (s : State) : (powerOn s).live = false := rfl
@[simp] theorem powerOn_t (s : State) : (powerOn s).t = 0 := rfl
@[simp] theorem powerOn_fs (s : State) : (powerOn s).fs = none := rfl
@[simp] theorem powerOn_ds (s : State) : (powerOn s).ds = none := rfl
@[simp] theorem powerOn_link0 (s : State) : (powerOn s).link0 = 0 := rfl
@[simp] theorem powerOn_link1 (s : State) : (powerOn s).link1 = 0 := rfl
@[simp] theorem powerOn_widx (s : State) : (powerOn s).widx = 0 := rfl
@[simp] theorem powerOn_dmaRun (s : State) : (powerOn s).dmaRun = false := rfl
@[simp] theorem powerOn_cur (s : State) : (powerOn s).cur = 0 := rfl
@[simp] theorem powerOn_dpos (s : State) : (powerOn s).dpos = 0 := rfl
@[simp] theorem powerOn_wpos (s : State) : (powerOn s).wpos = 0 := rfl
@[simp] theorem powerOn_percent (s : State) : (powerOn s).percent = 0 := rfl
@[simp] theorem powerOn_duty (s : State) : (powerOn s).duty = 0 := rfl
@[simp] theorem powerOn_done (s : State) : (powerOn s).done = false := rfl
@[simp] theorem powerOn_phase (s : State) : (powerOn s).phase = .idle := rfl
@[simp] theorem powerOn_fault (s : State) : (powerOn s).fault = 0 := rfl
@[simp] theorem powerOn_hazard (s : State) : (powerOn s).hazard = false := rfl
@[simp] theorem powerOn_code (s : State) : (powerOn s).code = 0 := rfl
@[simp] theorem powerOn_result (s : State) : (powerOn s).result = 0 := rfl
@[simp] theorem powerOn_frameBase (s : State) : (powerOn s).frameBase = 0 := rfl
@[simp] theorem powerOn_out (s : State) : (powerOn s).out = [] := rfl
@[simp] theorem powerOn_mem (s : State) : (powerOn s).mem = s.mem := rfl
@[simp] theorem powerOn_turns (s : State) : (powerOn s).turns = s.turns := rfl
@[simp] theorem powerOn_turnCount (s : State) : (powerOn s).turnCount = s.turnCount := rfl
@[simp] theorem powerOn_draws (s : State) : (powerOn s).draws = s.draws := rfl
@[simp] theorem powerOn_drawCount (s : State) : (powerOn s).drawCount = s.drawCount := rfl

@[simp] theorem startLive_cfg (t : Nat) (s : State) :
    (startLive t s).cfg = s.cfg := rfl
@[simp] theorem startLive_live (t : Nat) (s : State) :
    (startLive t s).live = true := rfl
@[simp] theorem startLive_t (t : Nat) (s : State) :
    (startLive t s).t = BitVec.ofNat 3 t := rfl
@[simp] theorem startLive_fs (t : Nat) (s : State) :
    (startLive t s).fs = some ⟨blackBuffer s.cfg t (dutyOf s.cfg s.cfg.brightInit.toNat), blackBuffer s.cfg t (dutyOf s.cfg s.cfg.brightInit.toNat)⟩ := rfl
@[simp] theorem startLive_ds (t : Nat) (s : State) :
    (startLive t s).ds = some (buildChains s.cfg t) := rfl
@[simp] theorem startLive_link0 (t : Nat) (s : State) :
    (startLive t s).link0 = 0 := rfl
@[simp] theorem startLive_link1 (t : Nat) (s : State) :
    (startLive t s).link1 = 1 := rfl
@[simp] theorem startLive_widx (t : Nat) (s : State) :
    (startLive t s).widx = 1 := rfl
@[simp] theorem startLive_dmaRun (t : Nat) (s : State) :
    (startLive t s).dmaRun = true := rfl
@[simp] theorem startLive_cur (t : Nat) (s : State) :
    (startLive t s).cur = 0 := rfl
@[simp] theorem startLive_dpos (t : Nat) (s : State) :
    (startLive t s).dpos = 0 := rfl
@[simp] theorem startLive_wpos (t : Nat) (s : State) :
    (startLive t s).wpos = 0 := rfl
@[simp] theorem startLive_percent (t : Nat) (s : State) :
    (startLive t s).percent = BitVec.ofNat 7 s.cfg.brightInit.toNat := rfl
@[simp] theorem startLive_duty (t : Nat) (s : State) :
    (startLive t s).duty = BitVec.ofNat 16 (dutyOf s.cfg s.cfg.brightInit.toNat) := rfl
@[simp] theorem startLive_done (t : Nat) (s : State) :
    (startLive t s).done = false := rfl
@[simp] theorem startLive_phase (t : Nat) (s : State) :
    (startLive t s).phase = .idle := rfl
@[simp] theorem startLive_fault (t : Nat) (s : State) :
    (startLive t s).fault = s.fault := rfl
@[simp] theorem startLive_hazard (t : Nat) (s : State) :
    (startLive t s).hazard = s.hazard := rfl
@[simp] theorem startLive_code (t : Nat) (s : State) :
    (startLive t s).code = codeBits .ok := rfl
@[simp] theorem startLive_result (t : Nat) (s : State) :
    (startLive t s).result = 0 := rfl
@[simp] theorem startLive_frameBase (t : Nat) (s : State) :
    (startLive t s).frameBase = s.frameBase := rfl
@[simp] theorem startLive_out (t : Nat) (s : State) :
    (startLive t s).out = s.out := rfl
@[simp] theorem startLive_mem (t : Nat) (s : State) :
    (startLive t s).mem = s.mem := rfl
@[simp] theorem startLive_turns (t : Nat) (s : State) :
    (startLive t s).turns = s.turns := rfl
@[simp] theorem startLive_turnCount (t : Nat) (s : State) :
    (startLive t s).turnCount = s.turnCount := rfl
@[simp] theorem startLive_draws (t : Nat) (s : State) :
    (startLive t s).draws = s.draws := rfl
@[simp] theorem startLive_drawCount (t : Nat) (s : State) :
    (startLive t s).drawCount = s.drawCount := rfl

@[simp] theorem dropTurn_cfg (s : State) : (dropTurn s).cfg = s.cfg := by
  unfold dropTurn; split <;> rfl
@[simp] theorem dropTurn_live (s : State) : (dropTurn s).live = s.live := by
  unfold dropTurn; split <;> rfl
@[simp] theorem dropTurn_t (s : State) : (dropTurn s).t = s.t := by
  unfold dropTurn; split <;> rfl
@[simp] theorem dropTurn_fs (s : State) : (dropTurn s).fs = s.fs := by
  unfold dropTurn; split <;> rfl
@[simp] theorem dropTurn_ds (s : State) : (dropTurn s).ds = s.ds := by
  unfold dropTurn; split <;> rfl
@[simp] theorem dropTurn_link0 (s : State) : (dropTurn s).link0 = s.link0 := by
  unfold dropTurn; split <;> rfl
@[simp] theorem dropTurn_link1 (s : State) : (dropTurn s).link1 = s.link1 := by
  unfold dropTurn; split <;> rfl
@[simp] theorem dropTurn_widx (s : State) : (dropTurn s).widx = s.widx := by
  unfold dropTurn; split <;> rfl
@[simp] theorem dropTurn_dmaRun (s : State) : (dropTurn s).dmaRun = s.dmaRun := by
  unfold dropTurn; split <;> rfl
@[simp] theorem dropTurn_cur (s : State) : (dropTurn s).cur = s.cur := by
  unfold dropTurn; split <;> rfl
@[simp] theorem dropTurn_dpos (s : State) : (dropTurn s).dpos = s.dpos := by
  unfold dropTurn; split <;> rfl
@[simp] theorem dropTurn_wpos (s : State) : (dropTurn s).wpos = s.wpos := by
  unfold dropTurn; split <;> rfl
@[simp] theorem dropTurn_percent (s : State) : (dropTurn s).percent = s.percent := by
  unfold dropTurn; split <;> rfl
@[simp] theorem dropTurn_duty (s : State) : (dropTurn s).duty = s.duty := by
  unfold dropTurn; split <;> rfl
@[simp] theorem dropTurn_done (s : State) : (dropTurn s).done = s.done := by
  unfold dropTurn; split <;> rfl
@[simp] theorem dropTurn_phase (s : State) : (dropTurn s).phase = s.phase := by
  unfold dropTurn; split <;> rfl
@[simp] theorem dropTurn_fault (s : State) : (dropTurn s).fault = s.fault := by
  unfold dropTurn; split <;> rfl
@[simp] theorem dropTurn_hazard (s : State) : (dropTurn s).hazard = s.hazard := by
  unfold dropTurn; split <;> rfl
@[simp] theorem dropTurn_code (s : State) : (dropTurn s).code = s.code := by
  unfold dropTurn; split <;> rfl
@[simp] theorem dropTurn_result (s : State) : (dropTurn s).result = s.result := by
  unfold dropTurn; split <;> rfl
@[simp] theorem dropTurn_frameBase (s : State) : (dropTurn s).frameBase = s.frameBase := by
  unfold dropTurn; split <;> rfl
@[simp] theorem dropTurn_out (s : State) : (dropTurn s).out = s.out := by
  unfold dropTurn; split <;> rfl
@[simp] theorem dropTurn_mem (s : State) : (dropTurn s).mem = s.mem := by
  unfold dropTurn; split <;> rfl
@[simp] theorem dropTurn_draws (s : State) : (dropTurn s).draws = s.draws := by
  unfold dropTurn; split <;> rfl
@[simp] theorem dropTurn_drawCount (s : State) : (dropTurn s).drawCount = s.drawCount := by
  unfold dropTurn; split <;> rfl

@[simp] theorem dropDraw_cfg (s : State) : (dropDraw s).cfg = s.cfg := by
  unfold dropDraw; split <;> rfl
@[simp] theorem dropDraw_live (s : State) : (dropDraw s).live = s.live := by
  unfold dropDraw; split <;> rfl
@[simp] theorem dropDraw_t (s : State) : (dropDraw s).t = s.t := by
  unfold dropDraw; split <;> rfl
@[simp] theorem dropDraw_fs (s : State) : (dropDraw s).fs = s.fs := by
  unfold dropDraw; split <;> rfl
@[simp] theorem dropDraw_ds (s : State) : (dropDraw s).ds = s.ds := by
  unfold dropDraw; split <;> rfl
@[simp] theorem dropDraw_link0 (s : State) : (dropDraw s).link0 = s.link0 := by
  unfold dropDraw; split <;> rfl
@[simp] theorem dropDraw_link1 (s : State) : (dropDraw s).link1 = s.link1 := by
  unfold dropDraw; split <;> rfl
@[simp] theorem dropDraw_widx (s : State) : (dropDraw s).widx = s.widx := by
  unfold dropDraw; split <;> rfl
@[simp] theorem dropDraw_dmaRun (s : State) : (dropDraw s).dmaRun = s.dmaRun := by
  unfold dropDraw; split <;> rfl
@[simp] theorem dropDraw_cur (s : State) : (dropDraw s).cur = s.cur := by
  unfold dropDraw; split <;> rfl
@[simp] theorem dropDraw_dpos (s : State) : (dropDraw s).dpos = s.dpos := by
  unfold dropDraw; split <;> rfl
@[simp] theorem dropDraw_wpos (s : State) : (dropDraw s).wpos = s.wpos := by
  unfold dropDraw; split <;> rfl
@[simp] theorem dropDraw_percent (s : State) : (dropDraw s).percent = s.percent := by
  unfold dropDraw; split <;> rfl
@[simp] theorem dropDraw_duty (s : State) : (dropDraw s).duty = s.duty := by
  unfold dropDraw; split <;> rfl
@[simp] theorem dropDraw_done (s : State) : (dropDraw s).done = s.done := by
  unfold dropDraw; split <;> rfl
@[simp] theorem dropDraw_phase (s : State) : (dropDraw s).phase = s.phase := by
  unfold dropDraw; split <;> rfl
@[simp] theorem dropDraw_fault (s : State) : (dropDraw s).fault = s.fault := by
  unfold dropDraw; split <;> rfl
@[simp] theorem dropDraw_hazard (s : State) : (dropDraw s).hazard = s.hazard := by
  unfold dropDraw; split <;> rfl
@[simp] theorem dropDraw_code (s : State) : (dropDraw s).code = s.code := by
  unfold dropDraw; split <;> rfl
@[simp] theorem dropDraw_result (s : State) : (dropDraw s).result = s.result := by
  unfold dropDraw; split <;> rfl
@[simp] theorem dropDraw_frameBase (s : State) : (dropDraw s).frameBase = s.frameBase := by
  unfold dropDraw; split <;> rfl
@[simp] theorem dropDraw_out (s : State) : (dropDraw s).out = s.out := by
  unfold dropDraw; split <;> rfl
@[simp] theorem dropDraw_mem (s : State) : (dropDraw s).mem = s.mem := by
  unfold dropDraw; split <;> rfl
@[simp] theorem dropDraw_turns (s : State) : (dropDraw s).turns = s.turns := by
  unfold dropDraw; split <;> rfl
@[simp] theorem dropDraw_turnCount (s : State) : (dropDraw s).turnCount = s.turnCount := by
  unfold dropDraw; split <;> rfl

end Sys2Proof.Machine
end

