-- ==== Sys2Proof/Laws/Parameters.lean ====
section
/-! SUPPORT. What an accepted configuration says, and the laws of the gamma table, the duty and `SETBRIGHT`'s operand. -/

namespace Sys2Proof.Machine

theorem depth_eq : depth = 8 := rfl

/-- The rows of the configuration check that a configuration can fail, one field each (R344). -/
structure ConfigAccepted (c : Config) : Prop where
  rip : c.rip = 2
  height : c.h = 2 * rows c
  one_le_rows : 1 ≤ rows c
  rows_le : rows c ≤ 32
  width_even : c.w % 2 = 0
  two_le_width : 2 ≤ c.w
  width_le : c.w ≤ 4096
  one_le_latchNs : 1 ≤ c.latchNs
  one_le_descSize : 1 ≤ c.descSize
  minRefreshHz_nonneg : 0 ≤ c.minRefreshHz
  reservedBytes_nonneg : 0 ≤ c.reservedBytes
  descMaxBytes : 2 * c.w ≤ c.descMaxBytes
  gamma : gammaLawful c = true
  layout : layoutLawful c.layout = true
  prevRow0_nonneg : 0 ≤ c.prevRow0
  prevRow0_le : c.prevRow0 ≤ 31
  brightInit_nonneg : 0 ≤ c.brightInit
  brightInit_le : c.brightInit ≤ 100

/-- The configuration check passes exactly where every row holds (R344). -/
theorem configOK_iff {c : Config} : configOK c = true ↔ ConfigAccepted c := by
  constructor
  · intro h
    simp only [configOK, Bool.and_eq_true, decide_eq_true_eq] at h
    obtain ⟨⟨⟨⟨⟨⟨⟨⟨⟨-, h2⟩, ⟨h3, h4⟩, h5⟩, ⟨h6, h7⟩, h8⟩, h9, h10⟩, h11, h12⟩, h13⟩, h14⟩, h15⟩,
      ⟨⟨h16, h17⟩, h18⟩, h19⟩ := h
    exact ⟨h2, h2 ▸ h3, h4, h5, h6, h7, h8, h9, h10, h11, h12, h13, h14, h15, h16, h17, h18, h19⟩
  · intro h
    simp only [configOK, Bool.and_eq_true, decide_eq_true_eq]
    exact ⟨⟨⟨⟨⟨⟨⟨⟨⟨depth_eq, h.rip⟩, ⟨h.rip ▸ h.height, h.one_le_rows⟩, h.rows_le⟩, ⟨h.width_even, h.two_le_width⟩,
      h.width_le⟩, h.one_le_latchNs, h.one_le_descSize⟩, h.minRefreshHz_nonneg, h.reservedBytes_nonneg⟩,
      h.descMaxBytes⟩, h.gamma⟩, h.layout⟩, ⟨⟨h.prevRow0_nonneg, h.prevRow0_le⟩, h.brightInit_nonneg⟩,
      h.brightInit_le⟩

/-- A lawful gamma table does not decrease (R260). -/
theorem gamma_le_of_le {c : Config} (h : gammaLawful c = true) {u v : Nat} (huv : u ≤ v) (hv : v ≤ 255) :
    (gammaLookup c (BitVec.ofNat 8 u)).toNat ≤ (gammaLookup c (BitVec.ofNat 8 v)).toNat := by
  simp only [gammaLawful, Bool.and_eq_true, List.all_eq_true, List.mem_range, decide_eq_true_eq] at h
  induction v, huv using Nat.le_induction with
  | base => rfl
  | succ v _ ih => exact (ih (by omega)).trans (h.1.1 v (by omega))

/-- A lawful gamma table keeps the two ends (R260). -/
theorem gamma_ends {c : Config} (h : gammaLawful c = true) : gammaLookup c 0 = 0 ∧ gammaLookup c 255 = 255 := by
  simp only [gammaLawful, Bool.and_eq_true, decide_eq_true_eq] at h
  exact ⟨h.1.2, h.2⟩

/-- Black stays black under channel correction (R148, R260). -/
theorem corrRgb_black {c : Config} (h : gammaLawful c = true) : corrRgb c ⟨0, 0, 0⟩ = ⟨0, 0, 0⟩ := by
  have h0 : gammaLookup c 0 = 0 := (gamma_ends h).1
  cases hm : c.corrMode <;> simp only [corrRgb, corrP, hm, h0]

/-- The signals' positions are distinct bits of the word (R100, R344 row 9). -/
theorem layoutLawful_iff {l : Layout} :
    layoutLawful l = true ↔ (∀ p ∈ layoutPositions l, p < 16) ∧ (layoutPositions l).Nodup := by
  simp [layoutLawful]

end Sys2Proof.Machine
end

