-- ==== Sys2Proof/Laws/Stores.lean ====
section
/-! SUPPORT. Word indices, slots, and reading and writing the frame store. -/

namespace Sys2Proof.Machine

/-- The slot swap undoes itself (R147). -/
@[simp] theorem slot_slot (x : Nat) : slot (slot x) = x := by
  simp [slot]

/-- The slot swap exchanges an even column with the odd one above it (R147). -/
theorem slot_eq (x : Nat) : slot x = if x % 2 = 0 then x + 1 else x - 1 := by
  have h := Nat.xor_mod_two_eq (m := x) (n := 1)
  have h2 : slot x / 2 = x / 2 := by
    have := Nat.xor_div_two (a := x) (b := 1)
    simpa [slot] using this
  have h3 : slot x % 2 = (x + 1) % 2 := h
  split <;> omega

/-- With an even width the slot of a column is a column (R147). -/
theorem slot_lt {w x : Nat} (hw : w % 2 = 0) (hx : x < w) : slot x < w := by
  rw [slot_eq]; split <;> omega

theorem slot_inj {x y : Nat} (h : slot x = slot y) : x = y := by
  rw [← slot_slot x, h, slot_slot]

/-- The word of a row, bitplane and slot lies in the buffer (R71). -/
theorem widx_lt {c : Config} {r j s : Nat} (hr : r < rows c) (hj : j < depth) (hs : s < c.w) :
    widx c r j s < bufferWords c := by
  unfold widx bufferWords
  calc (r * depth + j) * c.w + s < (r * depth + j) * c.w + c.w := by omega
    _ = (r * depth + j + 1) * c.w := by ring
    _ ≤ (rows c * depth) * c.w := by
      apply Nat.mul_le_mul_right
      calc r * depth + j + 1 ≤ r * depth + depth := by omega
        _ = (r + 1) * depth := by ring
        _ ≤ rows c * depth := Nat.mul_le_mul_right _ hr

/-- The parts of a word index (R71). -/
theorem widx_parts {c : Config} {r j s : Nat} (hj : j < depth) (hs : s < c.w) :
    widx c r j s / (depth * c.w) = r ∧ widx c r j s / c.w % depth = j ∧ widx c r j s % c.w = s := by
  have hd : widx c r j s / c.w = r * depth + j := by
    unfold widx
    rw [Nat.mul_comm, Nat.mul_add_div (by omega), Nat.div_eq_of_lt hs, Nat.add_zero]
  have hr : (r * depth + j) / depth = r := by
    rw [Nat.mul_comm, Nat.mul_add_div (by omega), Nat.div_eq_of_lt hj, Nat.add_zero]
  refine ⟨?_, ?_, ?_⟩
  · rw [Nat.mul_comm, ← Nat.div_div_eq_div_mul, hd, hr]
  · rw [hd, Nat.mul_comm, Nat.mul_add_mod, Nat.mod_eq_of_lt hj]
  · unfold widx
    rw [Nat.mul_comm, Nat.mul_add_mod, Nat.mod_eq_of_lt hs]

/-- Different rows, bitplanes or slots have different words (R71). -/
theorem widx_inj {c : Config} {r j s r' j' s' : Nat} (hj : j < depth) (hs : s < c.w) (hj' : j' < depth)
    (hs' : s' < c.w) (h : widx c r j s = widx c r' j' s') : r = r' ∧ j = j' ∧ s = s' := by
  obtain ⟨h1, h2, h3⟩ := widx_parts (r := r) hj hs
  obtain ⟨h4, h5, h6⟩ := widx_parts (r := r') hj' hs'
  rw [h] at h1 h2 h3
  exact ⟨h1.symm.trans h4, h2.symm.trans h5, h3.symm.trans h6⟩

/-- Every word of the buffer is the word of some row, bitplane and slot (R71). -/
theorem widx_surj {c : Config} {i : Nat} (hi : i < bufferWords c) :
    ∃ r j s, r < rows c ∧ j < depth ∧ s < c.w ∧ widx c r j s = i := by
  have hpos : 0 < rows c * depth * c.w := by unfold bufferWords at hi; omega
  have hw : 0 < c.w := Nat.pos_of_mul_pos_left hpos
  have hd : 0 < depth := Nat.pos_of_mul_pos_left (Nat.pos_of_mul_pos_right hpos)
  refine ⟨i / c.w / depth, i / c.w % depth, i % c.w, ?_, Nat.mod_lt _ hd, Nat.mod_lt _ hw, ?_⟩
  · rw [Nat.div_lt_iff_lt_mul hd, Nat.div_lt_iff_lt_mul hw]; exact hi
  · unfold widx
    rw [Nat.div_add_mod' (i / c.w) depth, Nat.div_add_mod' i c.w]

@[simp] theorem bufferOf_setBuffer_same (f : FrameStore) (b : BufIdx) (ws : List Word) :
    bufferOf (setBuffer f b ws) b = ws := by
  unfold bufferOf setBuffer; split <;> simp_all

@[simp] theorem bufferOf_setBuffer_next (f : FrameStore) (b : BufIdx) (ws : List Word) :
    bufferOf (setBuffer f b ws) (b + 1) = bufferOf f (b + 1) := by
  fin_cases b <;> rfl

theorem bufferOf_setBuffer_ne (f : FrameStore) {b c : BufIdx} (ws : List Word) (h : c ≠ b) :
    bufferOf (setBuffer f b ws) c = bufferOf f c := by
  have : c = b + 1 := by revert h; fin_cases b <;> fin_cases c <;> simp
  subst this; simp

@[simp] theorem setBuffer_setBuffer (f : FrameStore) (b : BufIdx) (ws vs : List Word) :
    setBuffer (setBuffer f b ws) b vs = setBuffer f b vs := by
  unfold setBuffer; split <;> rfl

/-- Two frame stores with the same buffers are one. -/
theorem frameStore_ext {f g : FrameStore} (b : BufIdx) (h : bufferOf f b = bufferOf g b)
    (h' : bufferOf f (b + 1) = bufferOf g (b + 1)) : f = g := by
  obtain ⟨f0, f1⟩ := f
  obtain ⟨g0, g1⟩ := g
  fin_cases b <;> simp_all [bufferOf]

@[simp] theorem fsWrite_length (f : FrameStore) (b : BufIdx) (i : Nat) (v : Word) :
    (bufferOf (fsWrite f b i v) b).length = (bufferOf f b).length := by simp [fsWrite]

/-- What a buffer reads after a write of one of its words. -/
theorem fsRead_fsWrite (f : FrameStore) (b : BufIdx) (i k : Nat) (v : Word) :
    fsRead (fsWrite f b i v) b k = if i = k then (fsRead f b k).map fun _ => v else fsRead f b k := by
  unfold fsRead fsWrite
  rw [bufferOf_setBuffer_same, List.getElem?_set]
  split
  · split
    · rename_i hik hlt
      rw [List.getElem?_eq_getElem (by omega)]; rfl
    · rename_i hik hlt
      rw [List.getElem?_eq_none (by omega)]; rfl
  · rfl

/-- The other buffer after a write of a word. -/
@[simp] theorem bufferOf_fsWrite_next (f : FrameStore) (b : BufIdx) (i : Nat) (v : Word) :
    bufferOf (fsWrite f b i v) (b + 1) = bufferOf f (b + 1) := by simp [fsWrite]

@[simp] theorem renderBuffer_length (c : Config) (t duty : Nat) (pixel : Nat → Nat → Rgb) :
    (renderBuffer c t duty pixel).length = bufferWords c := by simp [renderBuffer]

/-- The word a rendered buffer holds for a column (R153, R156): the loops' assignment. -/
theorem renderBuffer_widx {c : Config} (t duty : Nat) (pixel : Nat → Nat → Rgb) {r j x : Nat}
    (hr : r < rows c) (hj : j < depth) (hx : slot x < c.w) :
    (renderBuffer c t duty pixel)[widx c r j (slot x)]? =
      some (pixelWord c t duty (pixel x r) (pixel x (r + rows c)) r j x) := by
  obtain ⟨h1, h2, h3⟩ := widx_parts (r := r) hj hx
  unfold renderBuffer
  rw [List.getElem?_map, List.getElem?_range (widx_lt hr hj hx)]
  simp only [Option.map_some, h1, h2, h3, slot_slot]

end Sys2Proof.Machine
end

