-- ==== Sys2Proof/Laws/Compose.lean ====
section
/-! SUPPORT. The bits of composed words (R100 to R104, R141), and what merging with an old word keeps (R150). -/

namespace Sys2Proof.Machine

@[simp] theorem getLsbD_signalBit (p q : Nat) :
    (signalBit p).getLsbD q = (decide (p < 16) && decide (p = q)) := by
  simp [signalBit, BitVec.getLsbD_twoPow]

@[simp] theorem getLsbD_signalWhen (on : Bool) (p q : Nat) :
    (signalWhen on p).getLsbD q = (on && (decide (p < 16) && decide (p = q))) := by
  unfold signalWhen
  split <;> simp_all

/-- A bit of the base word: the address signals, OE and LAT, and nothing else (R141). -/
theorem getLsbD_baseWord (c : Config) (t duty r j x p : Nat) :
    (baseWord c t duty r j x).getLsbD p =
      let n := (rowAddr c r j % 32).toNat
      let on := fun b q => b && (decide (q < 16) && decide (q = p))
      (on (n.testBit 0) c.layout.a || on (n.testBit 1) c.layout.b || on (n.testBit 2) c.layout.c ||
        on (n.testBit 3) c.layout.d || on (n.testBit 4) c.layout.e || on (oeBit c t duty j x) c.layout.oe ||
        on (decide (x = c.w - 1)) c.layout.lat) := by
  simp [baseWord, addrBits]

/-- A bit of half 1's colour bits (R104). -/
theorem getLsbD_rgb1 (l : Layout) (p : Rgb) (j q : Nat) :
    (rgb1 l p j).getLsbD q =
      let on := fun b n => b && (decide (n < 16) && decide (n = q))
      (on (p.r.getLsbD j) l.r1 || on (p.g.getLsbD j) l.g1 || on (p.b.getLsbD j) l.b1) := by simp [rgb1]

/-- A bit of half 2's colour bits (R104). -/
theorem getLsbD_rgb2 (l : Layout) (p : Rgb) (j q : Nat) :
    (rgb2 l p j).getLsbD q =
      let on := fun b n => b && (decide (n < 16) && decide (n = q))
      (on (p.r.getLsbD j) l.r2 || on (p.g.getLsbD j) l.g2 || on (p.b.getLsbD j) l.b2) := by simp [rgb2]

@[simp] theorem rgb1_black (l : Layout) (j : Nat) : rgb1 l ⟨0, 0, 0⟩ j = 0 := by simp [rgb1, signalWhen]

@[simp] theorem rgb2_black (l : Layout) (j : Nat) : rgb2 l ⟨0, 0, 0⟩ j = 0 := by simp [rgb2, signalWhen]

/-- With a lawful layout the two halves' colour masks meet neither each other nor the base word, and each half's colour
bits lie in its own mask (R100, R104). -/
theorem colour_masks {c : Config} (h : layoutLawful c.layout = true) (t duty r j x : Nat) (p : Rgb) (w : Word) :
    baseWord c t duty r j x &&& c1Mask c.layout = 0 ∧ baseWord c t duty r j x &&& c2Mask c.layout = 0 ∧
    rgb1 c.layout p j &&& c1Mask c.layout = rgb1 c.layout p j ∧ rgb1 c.layout p j &&& c2Mask c.layout = 0 ∧
    rgb2 c.layout p j &&& c1Mask c.layout = 0 ∧ rgb2 c.layout p j &&& c2Mask c.layout = rgb2 c.layout p j ∧
    w &&& c1Mask c.layout &&& c2Mask c.layout = 0 ∧ w &&& c2Mask c.layout &&& c1Mask c.layout = 0 := by
  have hnd := (layoutLawful_iff.1 h).2
  simp only [layoutPositions, List.nodup_cons, List.mem_cons, List.not_mem_nil, or_false, not_or] at hnd
  clear h
  refine ⟨?_, ?_, ?_, ?_, ?_, ?_, ?_, ?_⟩ <;> apply BitVec.eq_of_getLsbD_eq <;> intro i hi <;>
    simp [getLsbD_baseWord, getLsbD_rgb1, getLsbD_rgb2, c1Mask, c2Mask] <;> grind

/-- What the two colour masks keep of a word that SETPIXEL stores: the pixel's bits in its own half, the old word's in
the other (R150). -/
theorem mergedWord_masks {c : Config} (h : layoutLawful c.layout = true) (t duty r j x : Nat) (p : Rgb)
    (old : Word) :
    mergedWord c t duty .one p r j x old &&& c1Mask c.layout = rgb1 c.layout (corrRgb c p) j ∧
    mergedWord c t duty .one p r j x old &&& c2Mask c.layout = old &&& c2Mask c.layout ∧
    mergedWord c t duty .two p r j x old &&& c1Mask c.layout = old &&& c1Mask c.layout ∧
    mergedWord c t duty .two p r j x old &&& c2Mask c.layout = rgb2 c.layout (corrRgb c p) j := by
  obtain ⟨m1, m2, m3, m4, m5, m6, m7, m8⟩ := colour_masks h t duty r j x (corrRgb c p) old
  have distrib : ∀ a b d e : Word, (a ||| b ||| d) &&& e = (a &&& e) ||| (b &&& e) ||| (d &&& e) := by
    intro a b d e
    apply BitVec.eq_of_getLsbD_eq
    intro i hi
    simp
    grind
  have twice : ∀ a b : Word, a &&& b &&& b = a &&& b := fun a b => by rw [BitVec.and_assoc, BitVec.and_self]
  simp only [mergedWord]
  rw [distrib, distrib, distrib, distrib, twice, twice, m1, m2, m3, m4, m5, m6, m7, m8]
  simp

/-- A mask with one signal tests that signal's bit. -/
theorem and_signalBit_ne_zero {w : Word} {p : Nat} (hp : p < 16) :
    (w &&& signalBit p ≠ 0) ↔ w.getLsbD p = true := by
  constructor
  · intro h
    by_contra hc
    apply h
    apply BitVec.eq_of_getLsbD_eq
    intro i hi
    by_cases hip : p = i
    · subst hip
      simp only [BitVec.getLsbD_and]
      simp [hc]
    · simp only [BitVec.getLsbD_and, getLsbD_signalBit]
      simp [hip]
  · intro h h0
    have := congrArg (fun v : Word => v.getLsbD p) h0
    simp only [BitVec.getLsbD_and, getLsbD_signalBit, h, hp] at this
    simp at this

/-- A channel is the sum of its bits' weights (R320). -/
theorem byte_eq_sum (v : Byte) :
    ((List.range 8).map fun j => if v.getLsbD j = true then 2 ^ j else 0).sum = v.toNat := by
  revert v
  decide +kernel

/-- A word's unused bits are 0 where every bit that is no signal's is (R102). -/
theorem unusedBitsZero_iff {l : Layout} {w : Word} :
    unusedBitsZero l w = true ↔ ∀ p, p ∉ layoutPositions l → w.getLsbD p = false := by
  simp only [unusedBitsZero, List.all_eq_true, List.mem_range, Bool.or_eq_true, decide_eq_true_eq,
    Bool.not_eq_true']
  constructor
  · intro h p hp
    by_cases h16 : p < 16
    · exact (h p h16).resolve_left hp
    · exact BitVec.getLsbD_of_ge _ _ (by omega)
  · intro h p _
    by_cases hp : p ∈ layoutPositions l
    · exact .inl hp
    · exact .inr (h p hp)

/-- The base word and the colour bits set signals only (R102). -/
theorem unused_of_composed (c : Config) (t duty r j x p : Nat) (q : Rgb) (hp : p ∉ layoutPositions c.layout) :
    (baseWord c t duty r j x).getLsbD p = false ∧ (rgb1 c.layout q j).getLsbD p = false ∧
      (rgb2 c.layout q j).getLsbD p = false := by
  simp only [layoutPositions, List.mem_cons, List.not_mem_nil, or_false, not_or] at hp
  rw [getLsbD_baseWord, getLsbD_rgb1, getLsbD_rgb2]
  refine ⟨?_, ?_, ?_⟩ <;> simp <;> grind

/-- The words of FILL and ENCODEFRAME have their unused bits 0 (R102). -/
theorem unusedBitsZero_pixelWord (c : Config) (t duty : Nat) (top bot : Rgb) (r j x : Nat) :
    unusedBitsZero c.layout (pixelWord c t duty top bot r j x) = true := by
  rw [unusedBitsZero_iff]
  intro p hp
  obtain ⟨h1, h2, -⟩ := unused_of_composed c t duty r j x p (corrRgb c top) hp
  obtain ⟨-, -, h3⟩ := unused_of_composed c t duty r j x p (corrRgb c bot) hp
  simp only [pixelWord, BitVec.getLsbD_or, h1, h2, h3, Bool.or_false]

/-- A word that SETPIXEL stores has its unused bits 0 when the old word had (R102). -/
theorem unusedBitsZero_mergedWord (c : Config) (t duty : Nat) (half : Half) (q : Rgb) (r j x : Nat) {old : Word}
    (ho : unusedBitsZero c.layout old = true) :
    unusedBitsZero c.layout (mergedWord c t duty half q r j x old) = true := by
  rw [unusedBitsZero_iff] at *
  intro p hp
  obtain ⟨h1, h2, h3⟩ := unused_of_composed c t duty r j x p (corrRgb c q) hp
  cases half <;>
    simp only [mergedWord, BitVec.getLsbD_or, BitVec.getLsbD_and, h1, h2, h3, ho p hp, Bool.or_false, Bool.false_and]

/-- A rendered buffer is whole, with every unused bit 0 (R102, R153, R156). -/
theorem bufferOK_renderBuffer (c : Config) (t duty : Nat) (pixel : Nat → Nat → Rgb) :
    bufferOK c (renderBuffer c t duty pixel) = true := by
  simp only [bufferOK, Bool.and_eq_true, decide_eq_true_eq, renderBuffer_length, List.all_eq_true, true_and]
  intro w hw
  simp only [renderBuffer, List.mem_map] at hw
  obtain ⟨i, _, rfl⟩ := hw
  exact unusedBitsZero_pixelWord _ _ _ _ _ _ _ _

end Sys2Proof.Machine
end

