-- ==== Sys2Proof/Laws/Encoding.lean ====
section
/-! SUPPORT. The fields of an assembled word, format by format (R111, R117). -/

namespace Sys2Proof

section
variable {n m lo len : Nat} (x : BitVec n) (y : BitVec m)

/-- A field above the low part of an append is a field of the high part. -/
theorem extract_append_high (h : m ≤ lo) : (x ++ y).extractLsb' lo len = x.extractLsb' (lo - m) len := by
  apply BitVec.eq_of_getLsbD_eq
  intro i hi
  rw [BitVec.getLsbD_extractLsb', BitVec.getLsbD_extractLsb', BitVec.getLsbD_append, if_neg (by omega)]
  congr 2; omega

/-- A field within the low part of an append is a field of the low part. -/
theorem extract_append_low (h : lo + len ≤ m) : (x ++ y).extractLsb' lo len = y.extractLsb' lo len := by
  apply BitVec.eq_of_getLsbD_eq
  intro i hi
  rw [BitVec.getLsbD_extractLsb', BitVec.getLsbD_extractLsb', BitVec.getLsbD_append, if_pos (by omega)]

/-- The field that is the whole word. -/
theorem extract_whole : y.extractLsb' 0 m = y := by
  apply BitVec.eq_of_getLsbD_eq
  intro i hi
  rw [BitVec.getLsbD_extractLsb', Nat.zero_add]
  simp [hi]

end

@[simp] theorem fieldOpc_wordN (o : BitVec 4) : fieldOpc (wordN o) = o :=
  (extract_append_high o 0#60 (lo := 60) (len := 4) (by decide)).trans (extract_whole o)

@[simp] theorem fieldOpc_wordU (o : BitVec 4) (blk : Bool) : fieldOpc (wordU o blk) = o :=
  (extract_append_high (o ++ 0#3 ++ BitVec.ofBool blk) 0#56 (lo := 60) (len := 4) (by decide)).trans <|
  (extract_append_high (o ++ 0#3) (BitVec.ofBool blk) (lo := 4) (len := 4) (by decide)).trans <|
  (extract_append_high o 0#3 (lo := 3) (len := 4) (by decide)).trans (extract_whole o)

@[simp] theorem fieldBlk_wordU (o : BitVec 4) (blk : Bool) : fieldBlk (wordU o blk) = blk := by
  revert o blk; decide

@[simp] theorem fieldOpc_wordP (o : BitVec 4) (x y : Nat) (c : Rgb) : fieldOpc (wordP o x y c) = o :=
  (extract_append_high (o ++ 0#4 ++ BitVec.ofNat 16 x ++ BitVec.ofNat 16 y ++ c.r ++ c.g) c.b (lo := 60) (len := 4) (by decide)).trans <|
  (extract_append_high (o ++ 0#4 ++ BitVec.ofNat 16 x ++ BitVec.ofNat 16 y ++ c.r) c.g (lo := 52) (len := 4) (by decide)).trans <|
  (extract_append_high (o ++ 0#4 ++ BitVec.ofNat 16 x ++ BitVec.ofNat 16 y) c.r (lo := 44) (len := 4) (by decide)).trans <|
  (extract_append_high (o ++ 0#4 ++ BitVec.ofNat 16 x) (BitVec.ofNat 16 y) (lo := 36) (len := 4) (by decide)).trans <|
  (extract_append_high (o ++ 0#4) (BitVec.ofNat 16 x) (lo := 20) (len := 4) (by decide)).trans <|
  (extract_append_high o 0#4 (lo := 4) (len := 4) (by decide)).trans (extract_whole o)

@[simp] theorem fieldX_wordP (o : BitVec 4) (x y : Nat) (c : Rgb) : fieldX (wordP o x y c) = x % 2 ^ 16 :=
  (congrArg BitVec.toNat <|
    (extract_append_high (o ++ 0#4 ++ BitVec.ofNat 16 x ++ BitVec.ofNat 16 y ++ c.r ++ c.g) c.b (lo := 40) (len := 16) (by decide)).trans <|
    (extract_append_high (o ++ 0#4 ++ BitVec.ofNat 16 x ++ BitVec.ofNat 16 y ++ c.r) c.g (lo := 32) (len := 16) (by decide)).trans <|
    (extract_append_high (o ++ 0#4 ++ BitVec.ofNat 16 x ++ BitVec.ofNat 16 y) c.r (lo := 24) (len := 16) (by decide)).trans <|
    (extract_append_high (o ++ 0#4 ++ BitVec.ofNat 16 x) (BitVec.ofNat 16 y) (lo := 16) (len := 16) (by decide)).trans <|
    (extract_append_low (o ++ 0#4) (BitVec.ofNat 16 x) (lo := 0) (len := 16) (by decide)).trans (extract_whole _)).trans
  (BitVec.toNat_ofNat x 16)

@[simp] theorem fieldY_wordP (o : BitVec 4) (x y : Nat) (c : Rgb) : fieldY (wordP o x y c) = y % 2 ^ 16 :=
  (congrArg BitVec.toNat <|
    (extract_append_high (o ++ 0#4 ++ BitVec.ofNat 16 x ++ BitVec.ofNat 16 y ++ c.r ++ c.g) c.b (lo := 24) (len := 16) (by decide)).trans <|
    (extract_append_high (o ++ 0#4 ++ BitVec.ofNat 16 x ++ BitVec.ofNat 16 y ++ c.r) c.g (lo := 16) (len := 16) (by decide)).trans <|
    (extract_append_high (o ++ 0#4 ++ BitVec.ofNat 16 x ++ BitVec.ofNat 16 y) c.r (lo := 8) (len := 16) (by decide)).trans <|
    (extract_append_low (o ++ 0#4 ++ BitVec.ofNat 16 x) (BitVec.ofNat 16 y) (lo := 0) (len := 16) (by decide)).trans (extract_whole _)).trans
  (BitVec.toNat_ofNat y 16)

/-- The three channels stand in the low 24 bits of any word that ends in them. -/
theorem fieldRgb_append (x : BitVec 40) (c : Rgb) : fieldRgb (x ++ c.r ++ c.g ++ c.b) = c := by
  have h1 : (x ++ c.r ++ c.g ++ c.b).extractLsb' 16 8 = c.r :=
    (extract_append_high (x ++ c.r ++ c.g) c.b (lo := 16) (len := 8) (by decide)).trans <|
    (extract_append_high (x ++ c.r) c.g (lo := 8) (len := 8) (by decide)).trans <|
    (extract_append_low x c.r (lo := 0) (len := 8) (by decide)).trans (extract_whole _)
  have h2 : (x ++ c.r ++ c.g ++ c.b).extractLsb' 8 8 = c.g :=
    (extract_append_high (x ++ c.r ++ c.g) c.b (lo := 8) (len := 8) (by decide)).trans <|
    (extract_append_low (x ++ c.r) c.g (lo := 0) (len := 8) (by decide)).trans (extract_whole _)
  have h3 : (x ++ c.r ++ c.g ++ c.b).extractLsb' 0 8 = c.b :=
    (extract_append_low (x ++ c.r ++ c.g) c.b (lo := 0) (len := 8) (by decide)).trans (extract_whole _)
  obtain ⟨r, g, b⟩ := c
  show Rgb.mk _ _ _ = _
  exact congr (congr (congrArg Rgb.mk h1) h2) h3

@[simp] theorem fieldRgb_wordP (o : BitVec 4) (x y : Nat) (c : Rgb) : fieldRgb (wordP o x y c) = c :=
  fieldRgb_append (o ++ 0#4 ++ BitVec.ofNat 16 x ++ BitVec.ofNat 16 y) c

@[simp] theorem fieldOpc_wordC (o : BitVec 4) (c : Rgb) : fieldOpc (wordC o c) = o :=
  (extract_append_high (o ++ 0#36 ++ c.r ++ c.g) c.b (lo := 60) (len := 4) (by decide)).trans <|
  (extract_append_high (o ++ 0#36 ++ c.r) c.g (lo := 52) (len := 4) (by decide)).trans <|
  (extract_append_high (o ++ 0#36) c.r (lo := 44) (len := 4) (by decide)).trans <|
  (extract_append_high o 0#36 (lo := 36) (len := 4) (by decide)).trans (extract_whole o)

@[simp] theorem fieldRgb_wordC (o : BitVec 4) (c : Rgb) : fieldRgb (wordC o c) = c := fieldRgb_append (o ++ 0#36) c

@[simp] theorem fieldOpc_wordV (o : BitVec 4) (v : BitVec 32) : fieldOpc (wordV o v) = o :=
  (extract_append_high (o ++ 0#28) v (lo := 60) (len := 4) (by decide)).trans <|
  (extract_append_high o 0#28 (lo := 28) (len := 4) (by decide)).trans (extract_whole o)

@[simp] theorem fieldVal_wordV (o : BitVec 4) (v : BitVec 32) : fieldVal (wordV o v) = v :=
  (extract_append_low (o ++ 0#28) v (lo := 0) (len := 32) (by decide)).trans (extract_whole v)

end Sys2Proof
end

