-- ==== Sys2Proof/Laws/Invariant.lean ====
section
/-! SUPPORT. The parts of the invariant that an update leaves alone. -/

namespace Sys2Proof.Machine

/-- The invariant does not read FAULT, HAZARD, RESULT, OUT and the model's queues. -/
theorem State.Inv.of_unread {s : State} (h : s.Inv) (fault : BitVec 5) (hazard : Bool) (result : BitVec 32)
    (out : List Word) (turns : List Turn) (turnCount : Nat) (draws : List InitDraw) (drawCount : Nat) :
    State.Inv
      { s with
        fault := fault, hazard := hazard, result := result, out := out, turns := turns, turnCount := turnCount
        draws := draws, drawCount := drawCount } where
  memory := h.memory
  code := h.code
  whenLive hl :=
    let l := h.whenLive hl
    ⟨l.config, l.running, l.frames, l.chains, l.position, l.brightness, l.links, l.completed⟩
  whenIdle hl :=
    let i := h.whenIdle hl
    ⟨i.stopped, i.stores, i.registers, i.noWait⟩
  waiting := h.waiting

/-- The invariant reads host memory's canonical form only. -/
theorem State.Inv.of_mem {s : State} (h : s.Inv) (m : List Host.Cell) (hm : memWf { s with mem := m } = true) :
    State.Inv { s with mem := m } where
  memory := hm
  code := h.code
  whenLive hl :=
    let l := h.whenLive hl
    ⟨l.config, l.running, l.frames, l.chains, l.position, l.brightness, l.links, l.completed⟩
  whenIdle hl :=
    let i := h.whenIdle hl
    ⟨i.stopped, i.stores, i.registers, i.noWait⟩
  waiting := h.waiting

/-- A wait holds of a live block only. -/
theorem State.Inv.live_of_waiting {s : State} (h : s.Inv) (hp : s.phase ≠ .idle) : s.live = true := by
  cases hl : s.live with
  | true => rfl
  | false => exact absurd (h.whenIdle hl).noWait hp

/-- Replacing one buffer by a whole one keeps both whole. -/
theorem bufferOK_setBuffer {c : Config} {f : FrameStore} {b : BufIdx} {ws : List Word}
    (h0 : bufferOK c f.buf0 = true) (h1 : bufferOK c f.buf1 = true) (hw : bufferOK c ws = true) :
    bufferOK c (setBuffer f b ws).buf0 = true ∧ bufferOK c (setBuffer f b ws).buf1 = true := by
  unfold setBuffer
  split
  · exact ⟨hw, h1⟩
  · exact ⟨h0, hw⟩

/-- Both buffers have the length of R71. -/
theorem bufferOf_length {c : Config} {f : FrameStore} (b : BufIdx) (h0 : bufferOK c f.buf0 = true)
    (h1 : bufferOK c f.buf1 = true) : (bufferOf f b).length = bufferWords c := by
  simp only [bufferOK, Bool.and_eq_true, decide_eq_true_eq] at h0 h1
  unfold bufferOf
  split
  · exact h0.1
  · exact h1.1

end Sys2Proof.Machine
end

