-- ==== Sys2Proof/Laws/Memory.lean ====
section
/-! SUPPORT. Host memory: read after write, the canonical form that every write keeps, and its uniqueness. -/

namespace Sys2Proof.Machine

variable {d : Nat → Byte}

theorem Memory.wf_nil : Memory.wf d [] = true := rfl

theorem Memory.wf_cons {a : Nat} {v : Byte} {m : List Host.Cell} :
    Memory.wf d ((a, v) :: m) = true ↔ v ≠ d a ∧ (∀ cell ∈ m, a < cell.1) ∧ Memory.wf d m = true := by
  simp [Memory.wf, and_assoc]

@[simp] theorem Memory.read_nil (a : Nat) : Memory.read d [] a = d a := rfl

/-- Below every listed address the power-on content is read. -/
theorem Memory.read_of_lt {m : List Host.Cell} {a : Nat} (h : ∀ cell ∈ m, a < cell.1) :
    Memory.read d m a = d a := by
  induction m with
  | nil => rfl
  | cons cell m ih =>
    have hc := h cell (by simp)
    rw [Memory.read, if_neg (by omega), ih fun c hm => h c (by simp [hm])]

/-- A byte written is read back. -/
theorem Memory.read_write_same {m : List Host.Cell} (hw : Memory.wf d m = true) (a : Nat) (v : Byte) :
    Memory.read d (Memory.write d m a v) a = v := by
  induction m with
  | nil => by_cases h : v = d a <;> simp [Memory.write, Memory.read, h]
  | cons cell m ih =>
    obtain ⟨b, u⟩ := cell
    obtain ⟨-, hlt, hm⟩ := Memory.wf_cons.1 hw
    by_cases h1 : a < b
    · have hr : Memory.read d ((b, u) :: m) a = d a :=
        Memory.read_of_lt fun c hc => by
          rcases List.mem_cons.1 hc with rfl | hc
          · exact h1
          · exact h1.trans (hlt c hc)
      by_cases h : v = d a
      · simp [Memory.write, h1, h, hr]
      · simp [Memory.write, h1, h, Memory.read]
    · by_cases h2 : a = b
      · subst h2
        by_cases h : v = d a
        · simp [Memory.write, h, Memory.read_of_lt hlt]
        · simp [Memory.write, h, Memory.read]
      · simp [Memory.write, h1, h2, Memory.read, ih hm]

/-- A write leaves every other byte as it was. -/
theorem Memory.read_write_other {m : List Host.Cell} (hw : Memory.wf d m = true) {a b : Nat} (v : Byte)
    (hab : b ≠ a) : Memory.read d (Memory.write d m a v) b = Memory.read d m b := by
  induction m with
  | nil => by_cases h : v = d a <;> simp [Memory.write, Memory.read, h, hab]
  | cons cell m ih =>
    obtain ⟨c, u⟩ := cell
    obtain ⟨-, hlt, hm⟩ := Memory.wf_cons.1 hw
    by_cases h1 : a < c
    · by_cases h : v = d a <;> simp [Memory.write, h1, h, Memory.read, hab]
    · by_cases h2 : a = c
      · subst h2
        by_cases h : v = d a <;> simp [Memory.write, h, Memory.read, hab]
      · by_cases hb : b = c <;> simp [Memory.write, h1, h2, Memory.read, hb, ih hm]

/-- Every address a write leaves listed was listed or is the one written. -/
theorem Memory.mem_write {m : List Host.Cell} {a : Nat} {v : Byte} {cell : Host.Cell}
    (h : cell ∈ Memory.write d m a v) : cell ∈ m ∨ cell = (a, v) := by
  induction m with
  | nil =>
    by_cases hv : v = d a
    · simp [Memory.write, hv] at h
    · simp [Memory.write, hv] at h; exact .inr h
  | cons c m ih =>
    obtain ⟨b, u⟩ := c
    unfold Memory.write at h
    split at h
    · split at h
      · exact .inl h
      · rcases List.mem_cons.1 h with h | h
        · exact .inr h
        · exact .inl h
    · split at h
      · split at h
        · exact .inl (List.mem_cons_of_mem _ h)
        · rcases List.mem_cons.1 h with h | h
          · exact .inr h
          · exact .inl (List.mem_cons_of_mem _ h)
      · rcases List.mem_cons.1 h with h | h
        · exact .inl (by simp [h])
        · rcases ih h with h | h
          · exact .inl (List.mem_cons_of_mem _ h)
          · exact .inr h

/-- A write keeps the canonical form. -/
theorem Memory.wf_write {m : List Host.Cell} (hw : Memory.wf d m = true) (a : Nat) (v : Byte) :
    Memory.wf d (Memory.write d m a v) = true := by
  induction m with
  | nil => by_cases h : v = d a <;> simp [Memory.write, h, Memory.wf]
  | cons cell m ih =>
    obtain ⟨b, u⟩ := cell
    have hw' := hw
    obtain ⟨hu, hlt, hm⟩ := Memory.wf_cons.1 hw
    unfold Memory.write
    split
    · split
      · exact hw'
      · rename_i h1 h
        refine Memory.wf_cons.2 ⟨h, fun c hc => ?_, hw'⟩
        rcases List.mem_cons.1 hc with rfl | hc
        · exact h1
        · exact h1.trans (hlt c hc)
    · split
      · split
        · exact hm
        · rename_i h2 h
          exact Memory.wf_cons.2 ⟨h, h2 ▸ hlt, hm⟩
      · refine Memory.wf_cons.2 ⟨hu, fun c hc => ?_, ih hm⟩
        rcases Memory.mem_write hc with hc | rfl
        · exact hlt c hc
        · show b < a
          omega

/-- Two memories in canonical form that read alike at every address are one. -/
theorem Memory.eq_of_read_eq {m n : List Host.Cell} (hm : Memory.wf d m = true) (hn : Memory.wf d n = true)
    (h : ∀ a, Memory.read d m a = Memory.read d n a) : m = n := by
  induction m generalizing n with
  | nil =>
    cases n with
    | nil => rfl
    | cons cell n =>
      obtain ⟨b, u⟩ := cell
      have := h b
      simp [Memory.read] at this
      exact absurd this.symm (Memory.wf_cons.1 hn).1
  | cons cell m ih =>
    obtain ⟨a, v⟩ := cell
    obtain ⟨hv, hlt, hm'⟩ := Memory.wf_cons.1 hm
    cases n with
    | nil =>
      have := h a
      simp [Memory.read] at this
      exact absurd this hv
    | cons cell n =>
      obtain ⟨b, u⟩ := cell
      obtain ⟨hu, hlt', hn'⟩ := Memory.wf_cons.1 hn
      have hab : a = b := by
        rcases lt_trichotomy a b with hl | rfl | hl
        · have := h a
          rw [Memory.read_of_lt (m := (b, u) :: n) fun c hc => ?_] at this
          · simp [Memory.read] at this
            exact absurd this hv
          · rcases List.mem_cons.1 hc with rfl | hc
            · exact hl
            · exact hl.trans (hlt' c hc)
        · rfl
        · have := h b
          rw [Memory.read_of_lt (m := (a, v) :: m) fun c hc => ?_] at this
          · simp [Memory.read] at this
            exact absurd this.symm hu
          · rcases List.mem_cons.1 hc with rfl | hc
            · exact hl
            · exact hl.trans (hlt c hc)
      subst hab
      have hvu : v = u := by simpa [Memory.read] using h a
      subst hvu
      congr 1
      refine ih hm' hn' fun x => ?_
      by_cases hx : x = a
      · rw [hx, Memory.read_of_lt hlt, Memory.read_of_lt hlt']
      · simpa [Memory.read, hx] using h x

/-- The state's memory keeps its canonical form under a write. -/
theorem memWf_memWrite {s : State} (h : memWf s = true) (a : Nat) (v : Byte) : memWf (memWrite a v s) = true :=
  Memory.wf_write h a v

/-- What the block reads of host memory after a write of one byte. -/
theorem memRead_memWrite {s : State} (h : memWf s = true) (a : Nat) (v : Byte) (b : Nat) :
    memRead (memWrite a v s) b = if b = a then v else memRead s b := by
  split
  · rename_i hb
    subst hb
    exact Memory.read_write_same h b v
  · rename_i hb
    exact Memory.read_write_other h v hb

/-- Host memory at reset is in its canonical form. -/
theorem memWf_reset : memWf State.reset = true := rfl

end Sys2Proof.Machine
end

