-- ==== Sys2Proof/Laws/Ops.lean ====
section
/-! SUPPORT. What each shared operation can do, said once. -/

namespace Sys2Proof.Machine

/-- The LIVE test: either the block is live and the body answers, or F_NOT_INIT is the only change (R346). -/
theorem whenLive_eq_next {s s' : State} {body : Result} (h : whenLive s body = .next s') :
    (s.live = true ∧ body = .next s') ∨ (s.live = false ∧ s' = raiseFault .notInit s) := by
  unfold whenLive at h
  split at h
  · exact .inl ⟨‹_›, h⟩
  · rename_i hl
    injection h with h
    exact .inr ⟨by simpa using hl, h.symm⟩

theorem whenLive_of_live {s : State} (body : Result) (h : s.live = true) : whenLive s body = body := by
  simp [whenLive, h]

theorem whenLive_of_not_live {s : State} (body : Result) (h : s.live = false) :
    whenLive s body = .next (raiseFault .notInit s) := by simp [whenLive, h]

/-- The frame test: either the frame is inside HOST_MEM and the body answers, or F_BAD_ADDR is the only change (R346). -/
theorem whenFrameOK_eq_next {s s' : State} {body : Result} (h : whenFrameOK s body = .next s') :
    (frameOK s = true ∧ body = .next s') ∨ (frameOK s = false ∧ s' = raiseFault .badAddr s) := by
  unfold whenFrameOK at h
  split at h
  · exact .inl ⟨‹_›, h⟩
  · rename_i hl
    injection h with h
    exact .inr ⟨by simpa using hl, h.symm⟩

theorem whenFrameOK_of_ok {s : State} (body : Result) (h : frameOK s = true) : whenFrameOK s body = body := by
  simp [whenFrameOK, h]

theorem whenFrameOK_of_not_ok {s : State} (body : Result) (h : frameOK s = false) :
    whenFrameOK s body = .next (raiseFault .badAddr s) := by simp [whenFrameOK, h]

/-- The frame test, byte by byte (R156). -/
theorem frameOK_iff {s : State} :
    frameOK s = true ↔ ∀ k < frameBytes s.cfg, inHostMem s.cfg (s.frameBase.toNat + k) = true := by
  simp [frameOK]

/-- The frame test reads the configuration and FRAME_BASE, and nothing else. -/
theorem frameOK_congr {s s' : State} (hc : s'.cfg = s.cfg) (hb : s'.frameBase = s.frameBase) :
    frameOK s' = frameOK s := by simp [frameOK, hc, hb]

/-- The raised fault's bit is set, and no bit is lost (R346, R351). -/
theorem raiseFault_fault_toNat (f : FaultBit) (s : State) :
    (raiseFault f s).fault &&& s.fault = s.fault ∧ (raiseFault f s).fault &&& faultMask f = faultMask f := by
  simp only [raiseFault_fault]
  constructor
  · ext i; simp; tauto
  · ext i; simp; tauto

/-- Writing the write target as a whole: it faults only where FS is absent. -/
theorem renderTarget_eq_next {pixel : Nat → Nat → Rgb} {s s' : State} (h : renderTarget pixel s = .next s') :
    ∃ f, s.fs = some f ∧ s' = recordTear
      { s with fs := some (setBuffer f s.widx (renderBuffer s.cfg s.t.toNat s.duty.toNat pixel)) } := by
  unfold renderTarget at h
  split at h
  · cases h
  · rename_i f hf
    injection h with h
    exact ⟨f, hf, h.symm⟩

theorem renderTarget_of_some {pixel : Nat → Nat → Rgb} {s : State} {f : FrameStore} (h : s.fs = some f) :
    renderTarget pixel s = .next (recordTear
      { s with fs := some (setBuffer f s.widx (renderBuffer s.cfg s.t.toNat s.duty.toNat pixel)) }) := by
  simp [renderTarget, h]

/-- SETPIXEL's loop answers when every word it names exists, and then it has replaced those words, each merged with
the old one, and left every other word of both buffers (R150). -/
theorem mergePlanes_eq_some (s : State) (half : Half) (p : Rgb) (r x : Nat) (hx : slot x < s.cfg.w) (js : List Nat)
    (f : FrameStore) (hjs : ∀ j ∈ js, j < depth) (hnd : js.Nodup)
    (hf : ∀ j ∈ js, widx s.cfg r j (slot x) < (bufferOf f s.widx).length) :
    ∃ f', mergePlanes s half p r x js f = some f' ∧
      bufferOf f' (s.widx + 1) = bufferOf f (s.widx + 1) ∧
      (bufferOf f' s.widx).length = (bufferOf f s.widx).length ∧
      (∀ j ∈ js, fsRead f' s.widx (widx s.cfg r j (slot x)) =
        (fsRead f s.widx (widx s.cfg r j (slot x))).map
          (mergedWord s.cfg s.t.toNat s.duty.toNat half p r j x)) ∧
      ∀ i, (∀ j ∈ js, i ≠ widx s.cfg r j (slot x)) → fsRead f' s.widx i = fsRead f s.widx i := by
  induction js generalizing f with
  | nil => exact ⟨f, rfl, rfl, rfl, by simp, fun _ _ => rfl⟩
  | cons j js ih =>
    obtain ⟨old, hold⟩ : ∃ old, fsRead f s.widx (widx s.cfg r j (slot x)) = some old :=
      ⟨_, List.getElem?_eq_getElem (hf j (by simp))⟩
    have hj : j ∉ js := (List.nodup_cons.1 hnd).1
    have hne : ∀ k ∈ js, widx s.cfg r j (slot x) ≠ widx s.cfg r k (slot x) := fun k hk h =>
      hj ((widx_inj (hjs j (by simp)) hx (hjs k (by simp [hk])) hx h).2.1 ▸ hk)
    obtain ⟨f', h1, h2, h3, h4, h5⟩ := ih
      (fsWrite f s.widx (widx s.cfg r j (slot x)) (mergedWord s.cfg s.t.toNat s.duty.toNat half p r j x old))
      (fun k hk => hjs k (by simp [hk])) (List.nodup_cons.1 hnd).2
      (fun k hk => by rw [fsWrite_length]; exact hf k (by simp [hk]))
    refine ⟨f', by simp only [mergePlanes, hold, h1], by rw [h2, bufferOf_fsWrite_next],
      by rw [h3, fsWrite_length], ?_, ?_⟩
    · intro k hk
      rcases List.mem_cons.1 hk with rfl | hk
      · rw [h5 _ hne, fsRead_fsWrite, if_pos rfl, hold]; rfl
      · rw [h4 k hk, fsRead_fsWrite, if_neg (hne k hk)]
    · intro i hi
      rw [h5 i fun k hk => hi k (by simp [hk]), fsRead_fsWrite, if_neg (hi j (by simp)).symm]

/-- INIT's outcome once the configuration is accepted (R230 steps 2 to 6 and 10). -/
theorem initOutcome_of_accepted {c : Config} (d : InitDraw) (h : configOK c = true) :
    initOutcome c d =
      if !(d.allocFs0 && d.allocFs1) then .error .errNoMem
      else
        match planTransitionBit c d with
        | none => .error .errResource
        | some t =>
          if descriptorTooLong c t then .error .errConfig
          else if !(d.allocDs0 && d.allocDs1) then .error .errNoMem
          else if !d.allocSignal then .error .errNoMem
          else if !d.setupOk then .error .errPeriph
          else .ok t := by
  unfold initOutcome
  rw [h]
  rfl

/-- A turn that is queued is the next one, and taking it leaves the rest. -/
theorem step_of_turn {s : State} {turn : Turn} {ts : List Turn} (h : s.turns = turn :: ts) :
    step s = turnStep turn { s with turns := ts } := by
  simp [step, nextTurn, dropTurn, h]

end Sys2Proof.Machine
end

