-- ==== Sys2Proof/Laws/PerInstr.lean ====
section
/-! SUPPORT. Statements made of each command as syntax, one lemma a constructor: the opcode its assembled word carries
(R114, R117). -/

namespace Sys2Proof

/-- The value of OPC for each command (R114). -/
def opcodeOf : Instr → BitVec 4
  | .nop => 0x0
  | .init => 0x1
  | .shutdown => 0x2
  | .setbright _ => 0x3
  | .getbright => 0x4
  | .setpixel _ _ _ => 0x5
  | .fill _ => 0x6
  | .update => 0x7
  | .updateB => 0x7
  | .encodeframe => 0x8
  | .fupdate => 0x9
  | .setframebase _ => 0xA
  | .fsetpixel _ _ _ => 0xB
  | .ffill _ => 0xC
  | .fclear => 0xD
  | .reservedE => 0xE
  | .reservedF => 0xF

/-- The assembled word carries the command's opcode in bits 63..60. -/
def Laws.AssembledOpcode.Statement (i : Instr) : Prop := fieldOpc (encode i) = opcodeOf i

theorem Laws.AssembledOpcode.nop : Laws.AssembledOpcode.Statement .nop := fieldOpc_wordN _

theorem Laws.AssembledOpcode.init : Laws.AssembledOpcode.Statement .init := fieldOpc_wordN _

theorem Laws.AssembledOpcode.shutdown : Laws.AssembledOpcode.Statement .shutdown := fieldOpc_wordN _

theorem Laws.AssembledOpcode.setbright (percent : Int) : Laws.AssembledOpcode.Statement (.setbright percent) := fieldOpc_wordV _ _

theorem Laws.AssembledOpcode.getbright : Laws.AssembledOpcode.Statement .getbright := fieldOpc_wordN _

theorem Laws.AssembledOpcode.setpixel (x y : Nat) (colour : Rgb) : Laws.AssembledOpcode.Statement (.setpixel x y colour) := fieldOpc_wordP _ _ _ _

theorem Laws.AssembledOpcode.fill (colour : Rgb) : Laws.AssembledOpcode.Statement (.fill colour) := fieldOpc_wordC _ _

theorem Laws.AssembledOpcode.update : Laws.AssembledOpcode.Statement .update := fieldOpc_wordU _ _

theorem Laws.AssembledOpcode.updateB : Laws.AssembledOpcode.Statement .updateB := fieldOpc_wordU _ _

theorem Laws.AssembledOpcode.encodeframe : Laws.AssembledOpcode.Statement .encodeframe := fieldOpc_wordN _

theorem Laws.AssembledOpcode.fupdate : Laws.AssembledOpcode.Statement .fupdate := fieldOpc_wordN _

theorem Laws.AssembledOpcode.setframebase (addr : BitVec 32) : Laws.AssembledOpcode.Statement (.setframebase addr) := fieldOpc_wordV _ _

theorem Laws.AssembledOpcode.fsetpixel (x y : Nat) (colour : Rgb) : Laws.AssembledOpcode.Statement (.fsetpixel x y colour) := fieldOpc_wordP _ _ _ _

theorem Laws.AssembledOpcode.ffill (colour : Rgb) : Laws.AssembledOpcode.Statement (.ffill colour) := fieldOpc_wordC _ _

theorem Laws.AssembledOpcode.fclear : Laws.AssembledOpcode.Statement .fclear := fieldOpc_wordN _

theorem Laws.AssembledOpcode.reservedE : Laws.AssembledOpcode.Statement .reservedE := fieldOpc_wordN _

theorem Laws.AssembledOpcode.reservedF : Laws.AssembledOpcode.Statement .reservedF := fieldOpc_wordN _

end Sys2Proof
end

