-- ==== Sys2Proof/Laws/Plan.lean ====
section
/-! SUPPORT. The pieces a chain is made of (R190). -/

namespace Sys2Proof.Machine

/-- Each descriptor of a row spans some bitplanes of that row, of its own buffer (R190). -/
theorem mem_rowDescriptors {c : Config} {t r : Nat} {b : BufIdx} {d : Descriptor} (h : d ∈ rowDescriptors c t b r) :
    ∃ first planes, d = planesDescriptor c b r first planes ∧ 1 ≤ planes ∧ first + planes ≤ max (t + 1) depth := by
  simp only [rowDescriptors, List.mem_cons, List.mem_flatMap, List.mem_range, List.mem_replicate] at h
  rcases h with h | ⟨k, hk, -, h⟩
  · exact ⟨_, _, h, by omega, by omega⟩
  · exact ⟨_, _, h, by omega, by omega⟩

@[simp] theorem markEnd_length (l : List Descriptor) : (markEnd l).length = l.length := by
  match l with
  | [] => rfl
  | [_] => rfl
  | d :: d' :: ds => simp [markEnd, markEnd_length (d' :: ds)]

/-- Marking the end changes the last descriptor's mark and nothing else (R190). -/
theorem markEnd_getElem? (l : List Descriptor) (k : Nat) :
    (markEnd l)[k]? = l[k]?.map fun d => if k + 1 = l.length then { d with eof := true } else d := by
  match l, k with
  | [], k => simp [markEnd]
  | [d], 0 => simp [markEnd]
  | [d], k + 1 => simp [markEnd]
  | d :: d' :: ds, 0 => simp [markEnd]
  | d :: d' :: ds, k + 1 =>
    simp only [markEnd, List.getElem?_cons_succ, markEnd_getElem? (d' :: ds) k]
    simp

/-- Marking the end commutes with a change of the other fields. -/
theorem markEnd_map (g : Descriptor → Descriptor) (hg : ∀ d, g { d with eof := true } = { g d with eof := true })
    (l : List Descriptor) : markEnd (l.map g) = (markEnd l).map g := by
  match l with
  | [] => rfl
  | [d] => simp [markEnd, hg]
  | d :: d' :: ds =>
    simp only [List.map_cons, markEnd]
    rw [← List.map_cons, markEnd_map g hg (d' :: ds)]

/-- Marking the end changes nothing of what does not read the mark. -/
theorem markEnd_flatMap {α : Type} (g : Descriptor → List α) (hg : ∀ d, g { d with eof := true } = g d)
    (l : List Descriptor) : (markEnd l).flatMap g = l.flatMap g := by
  match l with
  | [] => rfl
  | [d] => simp [markEnd, hg]
  | d :: d' :: ds =>
    simp only [markEnd, List.flatMap_cons]
    rw [markEnd_flatMap g hg (d' :: ds)]
    simp

/-- An entry of a list made of `n` parts of `m` entries each. -/
theorem flatMap_range_getElem? {α : Type} (f : Nat → List α) (n m : Nat) (hf : ∀ r, (f r).length = m) (k : Nat)
    (hk : k < n * m) : ((List.range n).flatMap f)[k]? = (f (k / m))[k % m]? := by
  induction n with
  | zero => simp at hk
  | succ n ih =>
    rw [List.range_succ, List.flatMap_append]
    have hl : ((List.range n).flatMap f).length = n * m := by simp [List.length_flatMap, hf]
    by_cases h : k < n * m
    · rw [List.getElem?_append_left (by omega), ih h]
    · rw [List.getElem?_append_right (by omega), hl]
      have h1 : k / m = n := Nat.div_eq_of_lt_le (by omega) hk
      have h2 : k % m = k - n * m := by rw [Nat.mod_eq_sub_div_mul, h1]
      simp [h1, h2]

theorem chainOf_buildChains {c : Config} {t : Nat} {b : BufIdx} : chainOf (buildChains c t) b = buildChain c t b := by
  fin_cases b <;> rfl

end Sys2Proof.Machine
end

