-- ==== Sys2Proof/Laws/Steps.lean ====
section
/-! SUPPORT. What a turn of each agent can do, said once: the port, the wait step, the replay step, INIT, and the bulk
writes of the caller's frame. -/

namespace Sys2Proof.Machine

/-- A property of a state that every write of a fold keeps holds of its outcome. -/
theorem foldl_keeps {α β : Type} (P : α → Prop) (f : α → β → α) (hf : ∀ a b, P a → P (f a b)) (l : List β) (a : α)
    (h : P a) : P (l.foldl f a) := by
  induction l generalizing a with
  | nil => exact h
  | cons b l ih => exact ih _ (hf _ _ h)

/-- FFILL's loop changes host memory only (R294). -/
theorem fillCallerFrame_eq (p : Rgb) (s : State) :
    fillCallerFrame p s = { s with mem := (fillCallerFrame p s).mem } := by
  unfold fillCallerFrame
  refine foldl_keeps (fun u : State => u = { s with mem := u.mem }) _ (fun u y hu => ?_) _ s rfl
  refine foldl_keeps (fun u : State => u = { s with mem := u.mem }) _ (fun u y hu => ?_) _ u hu
  rw [hu]
  rfl

/-- FCLEAR's loop changes host memory only (R296). -/
theorem clearCallerFrame_eq (s : State) : clearCallerFrame s = { s with mem := (clearCallerFrame s).mem } := by
  unfold clearCallerFrame
  refine foldl_keeps (fun u : State => u = { s with mem := u.mem }) _ (fun u y hu => ?_) _ s rfl
  rw [hu]
  rfl

theorem memWf_writeCallerPixel (x y : Nat) (p : Rgb) {s : State} (h : memWf s = true) :
    memWf (writeCallerPixel x y p s) = true :=
  memWf_memWrite (memWf_memWrite (memWf_memWrite h _ _) _ _) _ _

theorem memWf_fillCallerFrame (p : Rgb) {s : State} (h : memWf s = true) : memWf (fillCallerFrame p s) = true :=
  foldl_keeps (fun u => memWf u = true) _
    (fun u _ hu => foldl_keeps (fun u => memWf u = true) _ (fun _ _ hu => memWf_writeCallerPixel _ _ _ hu) _ u hu) _ s h

theorem memWf_clearCallerFrame {s : State} (h : memWf s = true) : memWf (clearCallerFrame s) = true :=
  foldl_keeps (fun u => memWf u = true) _ (fun _ _ hu => memWf_memWrite hu _ _) _ s h

/-- What SETPIXEL can answer: the LIVE fault, no change outside the panel, or the merged column and the tear record
(R150, R151). -/
theorem execSetpixel_eq_next {x y : Nat} {p : Rgb} {s s' : State} (h : execSetpixel x y p s = .next s') :
    (s.live = false ∧ s' = raiseFault .notInit s) ∨
    (s.live = true ∧ outOfRange s.cfg x y = true ∧ s' = s) ∨
    (s.live = true ∧ outOfRange s.cfg x y = false ∧ ∃ f f', s.fs = some f ∧
      mergePlanes s (pixelRow s.cfg y).1 p (pixelRow s.cfg y).2 x (List.range depth) f = some f' ∧
      s' = recordTear { s with fs := some f' }) := by
  rcases whenLive_eq_next h with ⟨hl, h⟩ | ⟨hl, h⟩
  · right
    split at h
    · rename_i ho
      cases h
      exact .inl ⟨hl, ho, rfl⟩
    · rename_i ho
      split at h
      · cases h
      · rename_i f hf
        dsimp only at h
        split at h
        · cases h
        · rename_i f' hm
          cases h
          exact .inr ⟨hl, by simpa using ho, f, f', hf, hm, rfl⟩
  · exact .inl ⟨hl, h⟩

/-- What presenting a command word can answer (R110). -/
theorem presentCommand_eq_next {w : CommandWord} {s s' : State} (h : presentCommand w s = .next s') :
    (s.phase = .idle ∧ exec (decode w) s = .next s') ∨ (s.phase ≠ .idle ∧ s' = raiseFault .concurrent s) := by
  unfold presentCommand at h
  split at h
  · exact .inl ⟨‹_›, h⟩
  · rename_i hp
    cases h
    exact .inr ⟨by simp [hp], rfl⟩
  · rename_i hp
    cases h
    exact .inr ⟨by simp [hp], rfl⟩

/-- What FUPDATE's second part can answer (R226). -/
theorem finishFupdate_eq_next {s s' : State} (h : finishFupdate s = .next s') :
    frameOK s = true ∧ ∃ u, renderTarget (callerPixel s) s = .next u ∧
      s' = { flipAndAdvance u with phase := .idle } := by
  unfold finishFupdate at h
  split at h
  · rename_i hf
    split at h
    · rename_i u hu
      cases h
      exact ⟨hf, u, hu, rfl⟩
    · cases h
    · cases h
  · cases h

/-- What the wait step can answer (R224, R226). -/
theorem waitStep_eq_next {s s' : State} (h : waitStep s = .next s') :
    ((s.phase = .idle ∨ s.done = false) ∧ s' = s) ∨
    (s.phase = .waitU ∧ s.done = true ∧ s' = { s with done := false, phase := .idle }) ∨
    (s.phase = .waitF ∧ s.done = true ∧ finishFupdate { s with done := false } = .next s') := by
  unfold waitStep at h
  split at h
  · rename_i hp
    cases h
    exact .inl ⟨.inl hp, rfl⟩
  · rename_i hp
    split at h
    · rename_i hd
      cases h
      exact .inr (.inl ⟨hp, hd, rfl⟩)
    · rename_i hd
      cases h
      exact .inl ⟨.inr (by simpa using hd), rfl⟩
  · rename_i hp
    split at h
    · rename_i hd
      exact .inr (.inr ⟨hp, hd, h⟩)
    · rename_i hd
      cases h
      exact .inl ⟨.inr (by simpa using hd), rfl⟩

/-- What the replay agent's word step can answer: nothing while it is stopped, else one word emitted and the position
moved (R311, R313). -/
theorem replayStep_eq_next {s s' : State} (h : replayStep s = .next s') :
    (s.dmaRun = false ∧ s' = s) ∨
    (s.dmaRun = true ∧ ∃ ds d f w, s.ds = some ds ∧ (chainOf ds s.cur)[s.dpos.toNat]? = some d ∧ s.fs = some f ∧
      fsRead f d.buf (d.off + (s.wpos.toNat ^^^ 1)) = some w ∧ s' = advance d (emit w s)) := by
  unfold replayStep at h
  split at h
  · rename_i hr
    split at h
    · cases h
    · rename_i d hd
      split at h
      · cases h
      · rename_i w hw
        obtain ⟨ds, hds, hd⟩ := Option.bind_eq_some_iff.1 hd
        obtain ⟨f, hf, hw⟩ := Option.bind_eq_some_iff.1 hw
        cases h
        exact .inr ⟨hr, ds, d, f, w, hds, hd, hf, hw, rfl⟩
  · rename_i hr
    cases h
    exact .inl ⟨by simpa using hr, rfl⟩

/-- Moving the replay position touches CUR, DPOS, WPOS and DONE only, and raises DONE or leaves it (R313, R316). -/
theorem advance_eq (d : Descriptor) (s : State) :
    advance d s =
      { s with
        cur := (advance d s).cur, dpos := (advance d s).dpos, wpos := (advance d s).wpos
        done := (advance d s).done } ∧
    ((advance d s).done = s.done ∨
      ((advance d s).done = true ∧ (advance d s).dpos = 0 ∧ (advance d s).wpos = 0 ∧
        (advance d s).cur = linkOf s s.cur)) := by
  unfold advance
  split
  · split
    · exact ⟨rfl, .inr ⟨rfl, rfl, rfl, rfl⟩⟩
    · exact ⟨rfl, .inl rfl⟩
  · exact ⟨rfl, .inl rfl⟩

/-- Using up a draw changes the model's own fields only. -/
theorem dropDraw_eq (s : State) : ∃ d k, dropDraw s = { s with draws := d, drawCount := k } := by
  unfold dropDraw
  split
  · exact ⟨_, _, rfl⟩
  · exact ⟨_, _, by rfl⟩

/-- Where INIT succeeds, the configuration was accepted and the plan found the transition bit (R230). -/
theorem initOutcome_eq_ok {c : Config} {d : InitDraw} {t : Nat} (h : initOutcome c d = .ok t) :
    configOK c = true ∧ planTransitionBit c d = some t := by
  unfold initOutcome at h
  split at h
  · cases h
  · rename_i hc
    split at h
    · cases h
    · split at h
      · cases h
      · rename_i ht
        split at h <;> [cases h; skip]
        split at h <;> [cases h; skip]
        split at h <;> [cases h; skip]
        split at h <;> [cases h; skip]
        cases h
        exact ⟨by simpa using hc, ht⟩

/-- A run over two lists of turns is the run over the first and then over the second. -/
theorem runTurns_append (ts us : List Turn) (s : State) :
    runTurns (ts ++ us) s =
      match runTurns ts s with
      | .next u => runTurns us u
      | .fault e => .fault e
      | .refused e => .refused e := by
  induction ts generalizing s with
  | nil => rfl
  | cons t ts ih =>
    simp only [List.cons_append, runTurns]
    cases turnStep t s with
    | next u => exact ih u
    | fault e => rfl
    | refused e => rfl

end Sys2Proof.Machine
end

