-- ==== Sys2Proof/Tests/Slice0.lean ====
section
/-! SUPPORT. The model's own tests. Expected values are those of spec/95_test_vectors.md, or worked out by hand from the
rules cited. The last part shows, for each statement of the certificate that has hypotheses, states and operands that
meet them. -/

namespace Sys2Proof.Tests

open Sys2Proof.Machine

-- One kernel evaluation at a time: many at once run out of threads under the check's memory limit.
set_option Elab.async false

/-! ## Helpers -/

/-- A result answers a next state. -/
def answers : Result → Bool
  | .next _ => true
  | .fault _ => false
  | .refused _ => false

/-- The next state a result answers, and the reset state where it answers none. -/
def after : Result → State
  | .next s => s
  | .fault _ => State.reset
  | .refused _ => State.reset

theorem eq_next_after {r : Result} (h : answers r = true) : r = .next (after r) := by
  cases r <;> simp_all [answers, after]

/-- The default bit positions (general knowledge, log entry 9). -/
def testLayout : Layout := ⟨0, 1, 2, 3, 4, 5, 6, 7, 8, 9, 10, 11, 12⟩

/-- The gamma table `GAMMA[v] = f v`. -/
def gammaTable (f : Nat → Nat) : Vector Byte 256 :=
  ⟨⟨(List.range 256).map fun v => BitVec.ofNat 8 (f v)⟩, by simp⟩

/-- The small panel of program P1 (spec/95, 3.1), with host memory for one frame at 0x1000. -/
def small : Config where
  w := 4
  h := 4
  rip := 2
  latchNs := 200
  descSize := 12
  descMaxBytes := 4095
  minRefreshHz := 50000
  reservedBytes := 0
  corrMode := .none
  gamma := gammaTable id
  layout := testLayout
  prevRow0 := 1
  brightInit := 100
  hostMem := [⟨0x1000, 48⟩]
  hostMemInit := []

/-- The reference panel of spec/95, 0. -/
def reference : Config := { small with w := 64, h := 32, latchNs := 3200, minRefreshHz := 400, prevRow0 := 15 }

/-- The small panel with correction on and a table that is not the identity. -/
def corrected (mode : CorrMode) : Config := { small with corrMode := mode, gamma := gammaTable fun v => v * v / 255 }

/-- Draws with which every step of INIT succeeds. -/
def okDraw : InitDraw := ⟨1000000, 1000000, true, true, true, true, true, true⟩

/-- A block right after power-on, with its draws queued and its caller's frame at 0x1000. -/
def idle (c : Config) (draws : List InitDraw) : State :=
  { State.reset with cfg := c, draws := draws, frameBase := 0x1000 }

/-- A block right after a successful INIT that found `T = 3`. -/
def live (c : Config) : State := startLive 3 (idle c [])

/-- A live small block, one replay step before a pass end (32 descriptors, the last of 4 words). -/
def nearEnd : State := { live small with dpos := 31, wpos := 3 }

/-- Every pixel of the panel. -/
def everyPixel (c : Config) : List (Nat × Nat) :=
  (List.range c.w).flatMap fun x => (List.range c.h).map fun y => (x, y)

theorem everyPixel_coversPanel (c : Config) : coversPanel c (everyPixel c) := by
  intro x y
  simp [everyPixel]

theorem gammaTable_lookup (c : Config) (f : Nat → Nat) (hc : c.gamma = gammaTable f) (v : Nat) (hv : v ≤ 255)
    (hf : f v ≤ 255) : (gammaLookup c (BitVec.ofNat 8 v)).toNat = f v := by
  have hv' : v % 256 = v := Nat.mod_eq_of_lt (by omega)
  simp [gammaLookup, hc, gammaTable, hv', Nat.mod_eq_of_lt (show f v < 256 by omega)]

theorem gammaTable_lawful (c : Config) (f : Nat → Nat) (hc : c.gamma = gammaTable f)
    (hf : ∀ v < 255, f v ≤ f (v + 1)) (h0 : f 0 = 0) (h255 : f 255 = 255) : gammaLawful c = true := by
  have hle : ∀ k ≤ 255, f (255 - k) ≤ 255 := by
    intro k hk
    induction k with
    | zero => simp [h255]
    | succ k ih =>
      have h := hf (255 - (k + 1)) (by omega)
      rw [show 255 - (k + 1) + 1 = 255 - k by omega] at h
      exact h.trans (ih (by omega))
  have hb : ∀ v ≤ 255, f v ≤ 255 := fun v hv => by
    simpa [show 255 - (255 - v) = v by omega] using hle (255 - v) (by omega)
  have hl : ∀ v ≤ 255, (gammaLookup c (BitVec.ofNat 8 v)).toNat = f v := fun v hv =>
    gammaTable_lookup c f hc v hv (hb v hv)
  simp only [gammaLawful, Bool.and_eq_true, List.all_eq_true, List.mem_range, decide_eq_true_eq]
  refine ⟨⟨fun v hv => ?_, ?_⟩, ?_⟩
  · rw [hl v (by omega), hl (v + 1) (by omega)]
    exact hf v hv
  · exact BitVec.eq_of_toNat_eq ((hl 0 (by omega)).trans h0)
  · exact BitVec.eq_of_toNat_eq ((hl 255 (by omega)).trans h255)

/-- The rows of the configuration check but the gamma table's, for the test panels. -/
theorem accepted_of_gamma {c : Config} (hg : gammaLawful c = true)
    (h : c.rip = 2 ∧ c.h = 2 * rows c ∧ 1 ≤ rows c ∧ rows c ≤ 32 ∧ c.w % 2 = 0 ∧ 2 ≤ c.w ∧
      c.w ≤ 4096 ∧ 1 ≤ c.latchNs ∧ 1 ≤ c.descSize ∧ 0 ≤ c.minRefreshHz ∧ 0 ≤ c.reservedBytes ∧
      2 * c.w ≤ c.descMaxBytes ∧ layoutLawful c.layout = true ∧ 0 ≤ c.prevRow0 ∧ c.prevRow0 ≤ 31 ∧
      0 ≤ c.brightInit ∧ c.brightInit ≤ 100) : configOK c = true := by
  obtain ⟨h2, h3, h4, h5, h6, h7, h8, h9, h10, h11, h12, h13, h14, h15, h16, h17, h18⟩ := h
  exact configOK_iff.2 ⟨h2, h3, h4, h5, h6, h7, h8, h9, h10, h11, h12, h13, hg, h14, h15, h16, h17, h18⟩

theorem small_accepted : configOK small = true :=
  accepted_of_gamma (gammaTable_lawful _ id rfl (by simp) rfl rfl) (by decide +kernel)

/-- The panel whose descriptors are too long: 4 bitplanes of 1024 words are more than 4095 bytes. -/
def long : Config := { small with w := 1024 }

theorem long_accepted : configOK long = true :=
  accepted_of_gamma (gammaTable_lawful _ id rfl (by simp) rfl rfl) (by decide +kernel)

theorem corrected_accepted (mode : CorrMode) : configOK (corrected mode) = true :=
  accepted_of_gamma
    (gammaTable_lawful _ (fun v => v * v / 255) rfl
      (fun v _ => Nat.div_le_div_right (Nat.mul_le_mul (by omega) (by omega))) rfl rfl)
    (by cases mode <;> decide +kernel)

/-- INIT of the small panel succeeds with these draws. -/
theorem small_init : exec .init (idle small [okDraw]) = .next (live small) := by
  have h : initOutcome small okDraw = .ok 3 := by
    rw [initOutcome_of_accepted _ small_accepted]
    decide +kernel
  show Host.Outcome.next (runInit (idle small [okDraw])) = .next (live small)
  unfold runInit
  rw [show initOutcome (idle small [okDraw]).cfg (currentDraw (idle small [okDraw])) = .ok 3 from h]
  rfl

/-- INIT of the small panel fails with these draws: no plan fits 10 bytes. -/
theorem small_init_fails :
    exec .init (idle small [{ okDraw with largestFree := 10, setupOk := false }]) =
      .next (failInit .errResource (idle small [])) := by
  have h : initOutcome small { okDraw with largestFree := 10, setupOk := false } = .error .errResource := by
    rw [initOutcome_of_accepted _ small_accepted]
    decide +kernel
  show Host.Outcome.next (runInit (idle small [{ okDraw with largestFree := 10, setupOk := false }])) = _
  unfold runInit
  rw [show initOutcome (idle small [{ okDraw with largestFree := 10, setupOk := false }]).cfg
    (currentDraw (idle small [{ okDraw with largestFree := 10, setupOk := false }])) = .error .errResource from h]
  rfl

/-! ## Operands that do not fit their fields -/

theorem test_wf_rejects_setpixel_x : (Instr.setpixel 65536 0 ⟨1, 2, 3⟩).wellFormed = false := by decide
theorem test_wf_rejects_setpixel_y : (Instr.setpixel 0 65536 ⟨1, 2, 3⟩).wellFormed = false := by decide
theorem test_wf_rejects_fsetpixel_x : (Instr.fsetpixel 65536 0 ⟨1, 2, 3⟩).wellFormed = false := by decide
theorem test_wf_rejects_fsetpixel_y : (Instr.fsetpixel 0 65536 ⟨1, 2, 3⟩).wellFormed = false := by decide
theorem test_wf_rejects_setbright_high : (Instr.setbright 2147483648).wellFormed = false := by decide
theorem test_wf_rejects_setbright_low : (Instr.setbright (-2147483649)).wellFormed = false := by decide
theorem test_decode_rejects_65_bits : decodeTableWord 65 0 = none := by decide

/-! ## Decoding: the words of spec/95, 2.1 -/

theorem test_decode_nop : decode 0x0000000000000000 = .nop := by decide
theorem test_decode_nop_ignored_fields : decode 0x0FFFFFFFFFFFFFFF = .nop := by decide
theorem test_decode_init : decode 0x1000000000000000 = .init := by decide
theorem test_decode_shutdown : decode 0x2000000000000000 = .shutdown := by decide
theorem test_decode_setbright : decode 0x3000000000000064 = .setbright 100 := by decide
theorem test_decode_setbright_negative : decode 0x30000000FFFFFFFF = .setbright (-1) := by decide
theorem test_decode_getbright : decode 0x4000000000000000 = .getbright := by decide
theorem test_decode_setpixel : decode 0x50003F001F010203 = .setpixel 63 31 ⟨1, 2, 3⟩ := by decide
theorem test_decode_fill : decode 0x6000000000FFFFFF = .fill ⟨0xFF, 0xFF, 0xFF⟩ := by decide
theorem test_decode_update : decode 0x7000000000000000 = .update := by decide
theorem test_decode_update_other_flags : decode 0x7E00000000000000 = .update := by decide
theorem test_decode_updateB : decode 0x7100000000000000 = .updateB := by decide
theorem test_decode_encodeframe : decode 0x8000000000000000 = .encodeframe := by decide
theorem test_decode_fupdate : decode 0x9000000000000000 = .fupdate := by decide
theorem test_decode_setframebase : decode 0xA00000003FFC0000 = .setframebase 0x3FFC0000 := by decide
theorem test_decode_fsetpixel : decode 0xB000000000123456 = .fsetpixel 0 0 ⟨0x12, 0x34, 0x56⟩ := by decide
theorem test_decode_ffill : decode 0xC000000000010203 = .ffill ⟨1, 2, 3⟩ := by decide
theorem test_decode_fclear : decode 0xD000000000000000 = .fclear := by decide
theorem test_decode_reservedE : decode 0xE000000000000000 = .reservedE := by decide
theorem test_decode_reservedF : decode 0xF000000000000000 = .reservedF := by decide
theorem test_encode_setpixel : encode (.setpixel 5 3 ⟨0xA5, 0x0F, 0xF0⟩) = 0x5000050003A50FF0 := by decide
theorem test_encode_updateB : encode .updateB = 0x7100000000000000 := by decide

/-! ## One step of each command -/

theorem test_init_succeeds :
    let s := after (exec .init (idle small [okDraw]))
    s.t = 3 ∧ s.duty = 4 ∧ (window s 0x00, window s 0x10, window s 0x14, window s 0x18) =
      (0x00000005, 0x00040064, 0x00000009, 0x00001003) := by
  rw [small_init]
  decide +kernel

theorem test_init_no_resources :
    let s := after (exec .init (idle small [{ okDraw with largestFree := 10, setupOk := false }]))
    s.code = 2 ∧ s.result = 2 ∧ s.live = false ∧ s.fs = none := by
  rw [small_init_fails]
  decide +kernel

theorem test_shutdown :
    let s := after (exec .shutdown { live small with fault := 2, hazard := true })
    s.live = false ∧ s.dmaRun = false ∧ s.fs = none ∧ s.link1 = 0 ∧ s.fault = 2 ∧ s.hazard = true := by
  decide +kernel

theorem test_setbright_clamps :
    let s := after (exec (.setbright (-5)) (live small))
    s.percent = 0 ∧ s.duty = 0 ∧ s.result = 100 := by decide +kernel

theorem test_setbright_half :
    let s := after (exec (.setbright 50) (live small))
    s.percent = 50 ∧ s.duty = 2 ∧ s.fs = (live small).fs := by decide +kernel

theorem test_getbright : (after (exec .getbright (live small))).result = 100 := by decide +kernel

/-- Program P1: the column of pixel (1, 0), at slot 0. -/
theorem test_setpixel_half_one :
    let s := after (exec (.setpixel 1 0 ⟨0xFF, 0x00, 0x81⟩) (live small))
    (List.range 8).map (fun j => columnWord s 1 0 j 1) =
      [0x0105, 0x0081, 0x0081, 0x0001, 0x0001, 0x0001, 0x0001, 0x0005] := by decide +kernel

/-- Program P1: the column of pixel (2, 3), at slot 3, in half 2 of row 1. -/
theorem test_setpixel_half_two :
    let s := after (exec (.setpixel 2 3 ⟨0x00, 0x80, 0x01⟩) (live small))
    (List.range 8).map (fun j => columnWord s 1 1 j 2) =
      [0x0020, 0x0180, 0x0180, 0x0180, 0x0100, 0x0100, 0x0100, 0x0110] := by decide +kernel

/-- Vectors S1 and S10: the other half's bits are kept. -/
theorem test_setpixel_keeps_other_half :
    let top := fun j => mergedWord reference 3 64 .one ⟨0xA5, 0x0F, 0xF0⟩ 3 j 5 (baseWord reference 3 64 3 j 5)
    (List.range 8).map top = [0x0203, 0x0302, 0x0303, 0x0302, 0x0304, 0x0305, 0x0304, 0x0305] ∧
    (List.range 8).map (fun j => mergedWord reference 3 64 .two ⟨0x01, 0x80, 0xFF⟩ 3 j 5 (top j)) =
      [0x022B, 0x0322, 0x0323, 0x0322, 0x0324, 0x0325, 0x0324, 0x0335] := by decide +kernel

/-- Vector F2: fill at 50 %. -/
theorem test_fill_words :
    (List.range 8).map (fun j => pixelWord reference 3 32 ⟨0x10, 0x20, 0x30⟩ ⟨0x10, 0x20, 0x30⟩ 3 j 5) =
      [0x0200, 0x0380, 0x0300, 0x0300, 0x032D, 0x0336, 0x0300, 0x0300] := by decide +kernel

theorem test_fill_decodes_everywhere :
    let s := after (exec (.fill ⟨0xFF, 0x00, 0x80⟩) (live small))
    (everyPixel small).map (fun p => decodeColour s 1 p.1 p.2) = List.replicate 16 (255, 0, 128) := by
  decide +kernel

/-- Vector Y1. -/
theorem test_update :
    let s := after (exec .update (live small))
    s.cur = 0 ∧ s.link0 = 1 ∧ s.link1 = 1 ∧ s.widx = 0 ∧ s.done = false ∧ s.phase = .idle ∧
      hwOwns s 0 = true ∧ hwOwns s 1 = true := by decide +kernel

/-- Vector Y7: the flip discards a stale completion, and the wait holds. -/
theorem test_updateB_stale_completion :
    let s := after (exec .updateB { live small with done := true })
    s.done = false ∧ s.phase = .waitU ∧ s.link0 = 1 ∧ s.widx = 0 := by decide +kernel

/-- Pixel (1, 2) of the caller's frame is half 2 of row 0. -/
theorem test_encodeframe :
    let s := after (exec .encodeframe { live small with mem := [(0x101B, 1), (0x101C, 0x80), (0x101D, 0xFF)] })
    decodeColour s 1 1 2 = (1, 128, 255) ∧ decodeColour s 1 1 0 = (0, 0, 0) ∧ s.hazard = false := by decide +kernel

/-- Vector X3: F_NOT_INIT wins over F_BAD_ADDR. -/
theorem test_encodeframe_priority :
    (after (exec .encodeframe { idle small [] with frameBase := 0xFFFFFFFF })).fault = 0x02 := by decide +kernel

/-- Vector X4: the frame's last byte is outside. -/
theorem test_fupdate_bad_frame :
    (after (exec .fupdate { live small with frameBase := 0x1001 })).fault = 0x10 := by decide +kernel

/-- Vector Y10, its last step. -/
theorem test_fupdate_second_part :
    let s := after (turnStep .wait { live small with phase := .waitF, done := true })
    s.link0 = 1 ∧ s.link1 = 1 ∧ s.widx = 0 ∧ s.done = false ∧ s.phase = .idle ∧ s.hazard = false := by
  decide +kernel

theorem test_setframebase : (after (exec (.setframebase 0x1000) State.reset)).frameBase = 0x1000 := by decide

theorem test_fsetpixel :
    (after (exec (.fsetpixel 1 2 ⟨0xA5, 0x0F, 0xF0⟩) (idle small []))).mem =
      [(0x101B, 0xA5), (0x101C, 0x0F), (0x101D, 0xF0)] := by decide +kernel

theorem test_fsetpixel_black_keeps_canonical_form :
    (after (exec (.fsetpixel 1 2 ⟨0, 0, 7⟩) { idle small [] with mem := [(0x101B, 1), (0x101C, 2)] })).mem =
      [(0x101D, 7)] := by decide +kernel

/-- Vectors M2 and M3. -/
theorem test_ffill_then_fclear :
    let s := after (exec (.ffill ⟨1, 2, 3⟩) (idle small []))
    s.mem.length = 48 ∧ memRead s 0x1000 = 1 ∧ memRead s 0x102F = 3 ∧ (after (exec .fclear s)).mem = [] := by
  decide +kernel

/-- Vector M6. -/
theorem test_ffill_bad_frame :
    let s := after (exec (.ffill ⟨9, 9, 9⟩) { idle small [] with frameBase := 0x1001 })
    s.fault = 0x10 ∧ s.mem = [] := by decide +kernel

/-- Vectors Z3 and Z8: a reserved word is F_ILLEGAL, and F_CONCURRENT while a wait holds. -/
theorem test_reserved :
    (after (presentCommand 0xE000000000000000 State.reset)).fault = 0x01 ∧
    (after (presentCommand 0xF000000000000000 { State.reset with phase := .waitU })).fault = 0x08 := by decide

/-- Program P1: the first four words of a pass, and where the agent stands after them. -/
theorem test_replay_first_words :
    let s := after (runTurns [.replay, .replay, .replay, .replay] (live small))
    s.out = [0x0180, 0x0100, 0x0100, 0x01C0] ∧ s.dpos = 0 ∧ s.wpos = 4 := by decide +kernel

/-- Vector O4: the pass end. -/
theorem test_replay_pass_end :
    let s := after (turnStep .replay { nearEnd with link0 := 1 })
    s.cur = 1 ∧ s.dpos = 0 ∧ s.wpos = 0 ∧ s.done = true ∧ s.out = [0x01C0] := by decide +kernel

/-- The duties of spec/95, 2.6, without correction. -/
theorem test_duty_linear :
    [0, 1, 2, 3, 10, 25, 50, 75, 99, 100].map (dutyOf reference) = [0, 1, 1, 2, 6, 16, 32, 48, 63, 64] := by
  decide +kernel

/-- The plan of spec/95, 2.7: vectors P-6, P-7, P-10 and P-11. -/
theorem test_plan_boundaries :
    planTransitionBit reference { okDraw with largestFree := 6143 } = some 4 ∧
    planTransitionBit reference { okDraw with largestFree := 6144 } = some 3 ∧
    planTransitionBit { reference with minRefreshHz := 2441 } okDraw = some 7 ∧
    planTransitionBit { reference with minRefreshHz := 2442 } okDraw = none := by decide +kernel

/-! ## Witnesses: the hypotheses of the statements can be met

Each theorem is named after the statement whose hypotheses it meets. -/

/-- What the live invariant says, as a check. -/
def liveChecks (s : State) : Bool :=
  s.dmaRun &&
  (match s.fs with
    | some f => bufferOK s.cfg f.buf0 && bufferOK s.cfg f.buf1
    | none => false) &&
  decide (s.ds = some (buildChains s.cfg s.t.toNat)) &&
  (match (buildChain s.cfg s.t.toNat s.cur)[s.dpos.toNat]? with
    | some d => decide (s.wpos.toNat < d.len / 2)
    | none => false) &&
  decide (s.percent.toNat ≤ 100 ∧ s.duty.toNat = dutyOf s.cfg s.percent.toNat) &&
  decide ((s.link0 = 0 ∧ s.link1 = 1 ∧ s.cur = 0 ∧ s.widx = 1) ∨
    (s.link0 = s.widx + 1 ∧ s.link1 = s.widx + 1)) &&
  (!s.done || decide (s.cur = s.widx + 1)) &&
  decide (s.live = true ∧ memWf s = true ∧ s.code.toNat ≤ 4) &&
  (decide (s.phase ≠ .waitF) || frameOK s)

theorem inv_of_liveChecks {s : State} (hc : configOK s.cfg = true) (h : liveChecks s = true) : s.Inv := by
  simp only [liveChecks, Bool.and_eq_true, decide_eq_true_eq, Bool.or_eq_true, Bool.not_eq_true'] at h
  obtain ⟨⟨⟨⟨⟨⟨⟨⟨h1, h2⟩, h3⟩, h4⟩, h5⟩, h6⟩, h7⟩, h8, h9, h10⟩, h11⟩ := h
  refine ⟨h9, h10, fun _ => ⟨hc, h1, ?_, h3, ?_, h5, h6, ?_⟩, fun hl => by simp [h8] at hl, ?_⟩
  · split at h2
    · rename_i f hf
      exact ⟨f, hf, (Bool.and_eq_true _ _ ▸ h2 : _ ∧ _)⟩
    · cases h2
  · split at h4
    · rename_i d hd
      exact ⟨d, hd, of_decide_eq_true h4⟩
    · cases h4
  · intro hd
    simpa [hd] using h7
  · intro hp
    simpa [hp] using h11

theorem live_inv : (live small).Inv := inv_of_liveChecks small_accepted (by decide +kernel)
theorem nearEnd_inv : nearEnd.Inv := inv_of_liveChecks small_accepted (by decide +kernel)

/-- A wait for FUPDATE whose completion has come. -/
def encodeTurn : State := { live small with phase := .waitF, done := true }

theorem encodeTurn_inv : encodeTurn.Inv := inv_of_liveChecks small_accepted (by decide +kernel)

/-- A blocking UPDATE's wait, one replay step before the pass end. -/
def waiting : State := after (exec .updateB nearEnd)

theorem waiting_inv : waiting.Inv := inv_of_liveChecks small_accepted (by decide +kernel)

theorem test_hyps_DecodeEncodeRoundTrip :
    (Instr.setpixel 65535 65535 ⟨255, 255, 255⟩).wellFormed = true ∧ (Instr.fsetpixel 0 65535 ⟨0, 1, 2⟩).wellFormed = true ∧
    (Instr.setbright 2147483647).wellFormed = true ∧ (Instr.setbright (-2147483648)).wellFormed = true := by decide

theorem test_hyps_IgnoredFieldsSelectNothing :
    (fieldOpc 0x0FFFFFFFFFFFFFFF = fieldOpc 0x0000000000000000 ∧
      fieldOpc 0x0FFFFFFFFFFFFFFF ∈ [0x0#4, 0x1#4, 0x2#4, 0x4#4, 0x8#4, 0x9#4, 0xD#4, 0xE#4, 0xF#4]) ∧
    (fieldOpc 0x7E00000000000001 = 0x7#4 ∧
      (0x7E00000000000001#64).getLsbD 56 = (0x7000000000000000#64).getLsbD 56) ∧
    (fieldOpc 0x6FFFFFFFFF010203 ∈ [0x6#4, 0xC#4] ∧
      (0x6FFFFFFFFF010203#64).extractLsb' 0 24 = (0x6000000000010203#64).extractLsb' 0 24) ∧
    (fieldOpc 0x3123456700000064 ∈ [0x3#4, 0xA#4] ∧
      (0x3123456700000064#64).extractLsb' 0 32 = (0x3000000000000064#64).extractLsb' 0 32) ∧
    (fieldOpc 0x5F00050003A50FF0 ∈ [0x5#4, 0xB#4] ∧
      (0x5F00050003A50FF0#64).extractLsb' 0 56 = (0x5000050003A50FF0#64).extractLsb' 0 56) := by decide

theorem test_hyps_StepRunsThePresentedCommand :
    ({ live small with turns := [.command 0x7000000000000000] } : State).turns = .command 0x7000000000000000 :: [] ∧
    (live small).phase = .idle ∧ Instr.update.wellFormed = true := ⟨rfl, rfl, rfl⟩

theorem test_hyps_CommandDuringAWaitIsRejected :
    ({ waiting with turns := [.command 0] } : State).turns = .command 0 :: [] ∧ waiting.phase ≠ .idle :=
  ⟨rfl, by decide +kernel⟩

theorem test_hyps_ReservedOpcodesRaiseIllegal :
    fieldOpc 0xE000000000000000 = 0xE#4 ∧ fieldOpc 0xFFFFFFFFFFFFFFFF = 0xF#4 ∧ State.reset.phase = .idle ∧
    waiting.phase ≠ .idle := by decide +kernel

theorem test_hyps_NopChangesNothing :
    fieldOpc 0x0FFFFFFFFFFFFFFF = 0x0#4 ∧ State.reset.phase = .idle ∧ waiting.phase ≠ .idle := by decide +kernel

theorem test_hyps_CommandsNeedingLiveRaiseNotInit : State.reset.live = false := rfl

theorem test_hyps_BadFrameRaisesBadAddr :
    let s := { live small with frameBase := 0x1001 }
    47 < s.cfg.w * s.cfg.h * 3 ∧ inHostMem s.cfg (s.frameBase.toNat + 47) = false ∧ s.live = true := by
  decide +kernel

theorem test_hyps_FaultBitsAccumulate :
    let s : State := { idle small [] with fault := 2 }
    (∃ s', Turn.command 0xE000000000000000 ≠ .powerOn ∧ turnStep (.command 0xE000000000000000) s = .next s' ∧
      s.fault.getLsbD 1 = true) ∧ ∃ s', turnStep .powerOn s = .next s' :=
  ⟨⟨_, by decide, rfl, by decide⟩, _, rfl⟩

theorem test_hyps_FaultingCommandChangesOneBit :
    let s := idle small []
    presentCommand 0xE000000000000000 s = .next (after (presentCommand 0xE000000000000000 s)) ∧
    (after (presentCommand 0xE000000000000000 s)).fault ≠ s.fault := ⟨rfl, by decide⟩

theorem test_hyps_LiveCommands : (live small).live = true := rfl

theorem test_hyps_DutyFunctionProperties :
    configOK (corrected .modified) = true ∧ (13 ≤ 100 ∧ (corrected .modified).corrMode = .modified ∧
      1 ≤ (13 * (corrected .modified).w + 50) / 100) := ⟨corrected_accepted _, by decide⟩

theorem test_hyps_BaseWord : layoutLawful small.layout = true ∧ 3 < small.w := by decide +kernel

/-- The edges of the two ranges of bitplanes, for T = 3: j = 0 and j = T + 1 of the one, j = 1 and j = T of the other. -/
theorem test_hyps_BlankingAtTheExtremes :
    layoutLawful small.layout = true ∧ 3 < small.w ∧ (∀ j ∈ [0, 3 + 1], j = 0 ∨ 3 < j) ∧
    ∀ j ∈ [1, 3], 1 ≤ j ∧ j ≤ 3 := by decide +kernel

/-- Blanking with DUTY = W = 64 and T = 3 at those bitplanes, by R144 and R145: bitplanes 0 and 4 are blanked from
column 64 on, bitplane 1 from column 64 >> 3 = 8 on, bitplane 3 from column 64 >> 1 = 32 on. -/
theorem test_blanking_at_the_edges :
    [0, 1, 3, 4].map (fun j => (baseWord reference 3 64 3 j 7).getLsbD reference.layout.oe) =
      [false, false, false, false] ∧
    [0, 1, 3, 4].map (fun j => (baseWord reference 3 64 3 j 31).getLsbD reference.layout.oe) =
      [false, true, false, false] ∧
    [0, 1, 3, 4].map (fun j => (baseWord reference 3 64 3 j 32).getLsbD reference.layout.oe) =
      [false, true, true, false] := by decide +kernel

theorem test_hyps_Setpixel :
    ∃ f, (live small).live = true ∧ configOK (live small).cfg = true ∧ (live small).fs = some f ∧
      (bufferOf f (live small).widx).length = bufferWords (live small).cfg ∧
      (3 < (live small).cfg.w ∧ 1 < (live small).cfg.h ∧ 1 < rows (live small).cfg) ∧
      (0 < (live small).cfg.w ∧ 2 < (live small).cfg.h ∧ rows (live small).cfg ≤ 2) ∧
      (live small).cfg.corrMode = .none ∧
      answers (exec (.setpixel 3 1 ⟨1, 2, 3⟩) (live small)) = true ∧ frameOK (live small) = true ∧
      coversPanel (live small).cfg (everyPixel small) :=
  ⟨_, rfl, small_accepted, rfl, by decide +kernel, by decide +kernel, by decide +kernel, rfl, by decide +kernel,
    by decide +kernel, everyPixel_coversPanel small⟩

theorem test_hyps_SetpixelThenDecodeCorrected :
    let s := live (corrected .strict)
    ∃ f, s.live = true ∧ configOK s.cfg = true ∧ s.fs = some f ∧
      (bufferOf f s.widx).length = bufferWords s.cfg ∧ 3 < s.cfg.w ∧ 2 < s.cfg.h ∧ s.cfg.corrMode ≠ .none ∧
      answers (exec (.setpixel 3 2 ⟨1, 2, 3⟩) s) = true :=
  ⟨_, rfl, corrected_accepted _, rfl, by decide +kernel, by decide +kernel, by decide +kernel, by decide,
    by decide +kernel⟩

theorem test_hyps_SetpixelOutsideThePanelIsIgnored :
    small.w ≤ 4 ∧ small.h ≤ 65535 ∧ (live small).live = true ∧ (idle small []).live = false := by decide

theorem test_hyps_FrameInside :
    (∀ k < small.w * small.h * 3, inHostMem small ((live small).frameBase.toNat + k) = true) ∧
    memWf (idle small []) = true ∧ (3 < small.w ∧ 3 < small.h) ∧ small.w ≤ 4 ∧ frameOK (idle small []) = true := by
  decide +kernel

theorem test_hyps_EncodersWriteOnlyTheTarget :
    answers (exec (.setpixel 3 1 ⟨1, 2, 3⟩) (live small)) = true ∧ answers (exec (.fill ⟨1, 2, 3⟩) (live small)) = true ∧
    answers (exec .encodeframe (live small)) = true ∧ frameOK (live small) = true := by decide +kernel

/-- A flip without a wait leaves the write target in the hands of the replay agent. -/
theorem test_hyps_TearOnlyFromWritesToAnOwnedBuffer :
    let s := after (exec .update (live small))
    (answers (turnStep (.command 0x6000000000010203) s) = true ∧ s.hazard = false ∧
      (after (turnStep (.command 0x6000000000010203) s)).hazard = true) ∧
    (let u : State := { s with phase := .waitF, done := true }
     answers (turnStep .wait u) = true ∧ u.hazard = false ∧ (after (turnStep .wait u)).hazard = true) := by
  decide +kernel

theorem test_hyps_TargetOwnedExactlyWhileReplayed :
    waiting.Inv ∧ waiting.live = true ∧ waiting.cur = waiting.widx ∧
    (live small).Inv ∧ (live small).live = true ∧ (live small).cur ≠ (live small).widx :=
  ⟨waiting_inv, by decide +kernel, by decide +kernel, live_inv, rfl, by decide⟩

theorem test_hyps_WaitStep :
    (live small).phase = .idle ∧ waiting.done = false ∧
    (let u := after (turnStep .replay waiting)
     u.phase = .waitU ∧ u.done = true) := by decide +kernel

theorem test_hyps_FupdateWaitsEncodesAndFlips :
    ∃ f, (live small).live = true ∧ configOK (live small).cfg = true ∧ (live small).fs = some f ∧
      frameOK (live small) = true ∧ (live small).done = false ∧ encodeTurn.fs = some f ∧ encodeTurn.done = true :=
  ⟨_, rfl, small_accepted, rfl, by decide +kernel, rfl, rfl, rfl⟩

theorem test_hyps_NoTearingAfterABlockingUpdate :
    let s₂ := after (turnStep .replay waiting)
    nearEnd.Inv ∧ nearEnd.live = true ∧ nearEnd.phase = .idle ∧ exec .updateB nearEnd = .next waiting ∧
    noPowerOn [.replay] = true ∧
    (∀ ts rest u, [Turn.replay] = ts ++ rest → runTurns ts waiting = .next u → u.phase = .waitU) ∧
    runTurns [.replay] waiting = .next s₂ ∧ s₂.done = true ∧ turnStep .wait s₂ = .next (after (turnStep .wait s₂)) := by
  have h₁ : exec .updateB nearEnd = .next waiting := eq_next_after (by decide +kernel)
  have h₂ : runTurns [.replay] waiting = .next (after (turnStep .replay waiting)) := by
    have h : turnStep .replay waiting = .next (after (turnStep .replay waiting)) := eq_next_after (by decide +kernel)
    simp only [runTurns]
    rw [h]
    rfl
  refine ⟨nearEnd_inv, rfl, rfl, h₁, rfl, ?_, h₂, by decide +kernel, eq_next_after (by decide +kernel)⟩
  intro ts rest u hts hu
  match ts with
  | [] =>
    cases hu
    exact (by decide +kernel : waiting.phase = .waitU)
  | [turn] =>
    simp only [List.cons_append, List.nil_append, List.cons.injEq] at hts
    rw [← hts.1, h₂] at hu
    cases hu
    exact (by decide +kernel : (after (turnStep .replay waiting)).phase = .waitU)
  | _ :: _ :: _ => simp at hts

theorem test_hyps_FupdateNeverTears : encodeTurn.Inv ∧ encodeTurn.phase = .waitF ∧ encodeTurn.done = true :=
  ⟨encodeTurn_inv, rfl, rfl⟩

theorem test_hyps_BlockingUpdateReturnsAfterAPassEnd :
    let r := runTurns [.replay, .wait] waiting
    nearEnd.live = true ∧ exec .updateB nearEnd = .next waiting ∧ noPowerOn [.replay, .wait] = true ∧
    r = .next (after r) ∧ (after r).phase = .idle :=
  ⟨rfl, eq_next_after (by decide +kernel), rfl, eq_next_after (by decide +kernel), by decide +kernel⟩

theorem test_hyps_Waits :
    waiting.Inv ∧ waiting.phase ≠ .idle ∧ weaklyFair (fun _ => .replay) ∧
    ∀ n, (fun _ : Nat => Turn.replay) n ≠ .powerOn :=
  ⟨waiting_inv, by decide +kernel, fun n => ⟨n, le_rfl, rfl⟩, fun _ => by simp⟩

theorem test_hyps_InitStartsTheBlock :
    let s := idle small [okDraw]
    s.live = false ∧ configOK s.cfg = true ∧ (currentDraw s).allocFs0 = true ∧ (currentDraw s).allocFs1 = true ∧
    planTransitionBit s.cfg (currentDraw s) = some 3 ∧
    max (3 + 1) (8 - 3 - 1) * s.cfg.w * 2 ≤ s.cfg.descMaxBytes ∧ (currentDraw s).allocDs0 = true ∧
    (currentDraw s).allocDs1 = true ∧ (currentDraw s).allocSignal = true ∧ (currentDraw s).setupOk = true :=
  ⟨rfl, small_accepted, rfl, rfl, by decide +kernel, by decide, rfl, rfl, rfl, rfl⟩

/-- The cases of INIT's failure, one draw or configuration for each. -/
theorem test_hyps_InitReportsTheFirstFailure :
    configOK { small with rip := 4 } = false ∧
    configOK small = true ∧
    (currentDraw (idle small [{ okDraw with allocFs1 := false }])).allocFs1 = false ∧
    planTransitionBit small { okDraw with largestFree := 10 } = none ∧
    planTransitionBit small okDraw = some 3 ∧ max (3 + 1) (8 - 3 - 1) * small.w * 2 ≤ small.descMaxBytes ∧
    configOK long = true ∧ planTransitionBit long okDraw = some 3 ∧
    long.descMaxBytes < max (3 + 1) (8 - 3 - 1) * long.w * 2 :=
  ⟨by decide +kernel, small_accepted, rfl, by decide +kernel, by decide +kernel, by decide, long_accepted,
    by decide +kernel, by decide⟩

/-- The draws that fail after the plan: each descriptor array, the completion signal, and `setup`. The plan finds
`T = 3` before each of them. -/
theorem test_hyps_InitReportsTheFirstFailure_late :
    let drawn (d : InitDraw) : InitDraw := currentDraw (idle small [d])
    (idle small []).live = false ∧ configOK small = true ∧
    (∀ d ∈ [{ okDraw with allocDs0 := false }, { okDraw with allocDs1 := false }, { okDraw with allocSignal := false },
        { okDraw with setupOk := false }],
      (drawn d).allocFs0 = true ∧ (drawn d).allocFs1 = true ∧ planTransitionBit small (drawn d) = some 3) ∧
    (drawn { okDraw with allocDs0 := false }).allocDs0 = false ∧
    (drawn { okDraw with allocDs1 := false }).allocDs1 = false ∧
    (drawn { okDraw with allocSignal := false }).allocSignal = false ∧
    (let d := drawn { okDraw with setupOk := false }
     d.allocDs0 = true ∧ d.allocDs1 = true ∧ d.allocSignal = true ∧ d.setupOk = false) :=
  ⟨rfl, small_accepted, by decide +kernel, rfl, rfl, rfl, by decide⟩

theorem test_hyps_ShutdownStopsAndIsIdempotent :
    (live small).live = true ∧ (idle small []).live = false ∧
    exec .shutdown (live small) = .next (after (exec .shutdown (live small))) :=
  ⟨rfl, rfl, eq_next_after (by decide +kernel)⟩

theorem test_hyps_AcceptanceIsUpwardClosed : configOK small = true ∧ 0 < 7 ∧ 7 < 8 ∧ accept small okDraw 3 = true :=
  ⟨small_accepted, by decide, by decide, by decide +kernel⟩

theorem test_hyps_CostFunctionsInClosedForm : 0 < 8 ∧ 7 < 8 := by decide

theorem test_hyps_ChainsHaveTheirShape :
    configOK small = true ∧ 3 < 8 ∧ (∃ d, (buildChain small 3 1)[0]? = some d) ∧
    ∃ d, (buildChain small 3 1)[31]? = some d :=
  ⟨small_accepted, by decide, ⟨_, rfl⟩, ⟨_, rfl⟩⟩

/-- The three cases of a word step: inside a descriptor, at its end, and at the end of the chain. -/
theorem test_hyps_ReplayStepMovesOneWord :
    (∀ s ∈ [live small, { live small with wpos := 15 }, nearEnd],
      s.dmaRun = true ∧ ((s.ds.bind fun ds => (chainOf ds s.cur)[s.dpos.toNat]?).bind fun d =>
        s.fs.bind fun f => fsRead f d.buf (d.off + (s.wpos.toNat ^^^ 1))).isSome = true) ∧
    ((buildChain small 3 0)[0]?.map fun d => (d.len / 2, d.eof)) = some (16, false) ∧
    ((buildChain small 3 0)[31]?.map fun d => (d.len / 2, d.eof)) = some (4, true) := by decide +kernel

theorem test_hyps_ReplayRestsWhileStopped :
    (idle small []).dmaRun = false ∧ (live small).live = true ∧
    exec .shutdown (live small) = .next (after (exec .shutdown (live small))) :=
  ⟨rfl, rfl, eq_next_after (by decide +kernel)⟩

theorem test_hyps_APassEmitsTheWholeFrame :
    (live small).Inv ∧ (live small).live = true ∧ (live small).dpos = 0 ∧ (live small).wpos = 0 :=
  ⟨live_inv, rfl, rfl, rfl⟩

theorem test_hyps_FirstWordAfterInit :
    let s := idle small [okDraw]
    s.live = false ∧ exec .init s = .next (live small) ∧ (live small).live = true := ⟨rfl, small_init, rfl⟩

theorem test_hyps_OutputOnlyGrows :
    Turn.replay ≠ .powerOn ∧ turnStep .replay nearEnd = .next (after (turnStep .replay nearEnd)) :=
  ⟨by decide, eq_next_after (by decide +kernel)⟩

theorem test_hyps_WindowAfterReset :
    (small.w < 2 ^ 16 ∧ ({ small with h := 65535 } : Config).h < 2 ^ 16 ∧
      ({ small with rip := 255 } : Config).rip < 2 ^ 8) ∧ (0x2C % 4 = 0 ∧ 0x2C ≤ 0x2C) ∧
    State.reset = State.reset ∧ ∃ u, turnStep .powerOn u = .next (powerOn (live small)) :=
  ⟨by decide, by decide, rfl, live small, rfl⟩

theorem test_hyps_EveryStep :
    let s : State := { nearEnd with turns := [.replay] }
    s.Inv ∧ step s = .next (after (step s)) :=
  ⟨inv_of_liveChecks small_accepted (by decide +kernel), eq_next_after (by decide +kernel)⟩

end Sys2Proof.Tests
end

/-! SUPPORT. What a command may do to FAULT (R346, R350): leave it, or raise one fault and do nothing else. -/

namespace Sys2Proof.Machine

/-- The register FAULT is as before, or the whole change from `s` to `s'` is one raised fault (R346). -/
def KeepsFaultOrRaises (s s' : State) : Prop := s'.fault = s.fault ∨ ∃ f, s' = raiseFault f s

theorem keepsFaultOrRaises_raiseFault (f : FaultBit) (s : State) : KeepsFaultOrRaises s (raiseFault f s) :=
  .inr ⟨f, rfl⟩

theorem KeepsFaultOrRaises.of_next {s s' u : State} (h : (.next u : Result) = .next s') (hu : u.fault = s.fault) :
    KeepsFaultOrRaises s s' := by
  cases h
  exact .inl hu

/-- The LIVE test raises F_NOT_INIT alone, or leaves it to the body. -/
theorem whenLive_keepsFaultOrRaises {s s' : State} {body : Result} (h : whenLive s body = .next s')
    (hbody : body = .next s' → KeepsFaultOrRaises s s') : KeepsFaultOrRaises s s' := by
  rcases whenLive_eq_next h with ⟨-, hb⟩ | ⟨-, rfl⟩
  · exact hbody hb
  · exact keepsFaultOrRaises_raiseFault _ s

/-- The frame test raises F_BAD_ADDR alone, or leaves it to the body. -/
theorem whenFrameOK_keepsFaultOrRaises {s s' : State} {body : Result} (h : whenFrameOK s body = .next s')
    (hbody : body = .next s' → KeepsFaultOrRaises s s') :
    KeepsFaultOrRaises s s' := by
  rcases whenFrameOK_eq_next h with ⟨-, hb⟩ | ⟨-, rfl⟩
  · exact hbody hb
  · exact keepsFaultOrRaises_raiseFault _ s

theorem renderTarget_keepsFaultOrRaises {pixel : Nat → Nat → Rgb} {s s' : State}
    (h : renderTarget pixel s = .next s') : KeepsFaultOrRaises s s' := by
  obtain ⟨f, -, rfl⟩ := renderTarget_eq_next h
  exact .inl rfl

@[simp] theorem runInit_fault (s : State) : (runInit s).fault = s.fault := by
  unfold runInit
  split <;> simp

@[simp] theorem writeCallerPixel_fault (x y : Nat) (p : Rgb) (s : State) :
    (writeCallerPixel x y p s).fault = s.fault := rfl

@[simp] theorem fillCallerFrame_fault (p : Rgb) (s : State) : (fillCallerFrame p s).fault = s.fault :=
  (congrArg State.fault (fillCallerFrame_eq p s) :)

@[simp] theorem clearCallerFrame_fault (s : State) : (clearCallerFrame s).fault = s.fault :=
  (congrArg State.fault (clearCallerFrame_eq s) :)

theorem execInit_keepsFaultOrRaises {s s' : State} (h : execInit s = .next s') : KeepsFaultOrRaises s s' := by
  unfold execInit at h
  split at h
  · cases h
    exact keepsFaultOrRaises_raiseFault _ s
  · exact .of_next h (runInit_fault s)

theorem execShutdown_keepsFaultOrRaises {s s' : State} (h : execShutdown s = .next s') :
    KeepsFaultOrRaises s s' := by
  unfold execShutdown at h
  split at h
  · exact .of_next h (stopLive_fault s)
  · exact .of_next h rfl

theorem execSetpixel_keepsFaultOrRaises {x y : Nat} {p : Rgb} {s s' : State} (h : execSetpixel x y p s = .next s') :
    KeepsFaultOrRaises s s' := by
  rcases execSetpixel_eq_next h with ⟨-, rfl⟩ | ⟨-, -, rfl⟩ | ⟨-, -, f, f', -, -, rfl⟩
  · exact keepsFaultOrRaises_raiseFault _ s
  · exact .inl rfl
  · exact .inl rfl

theorem execFsetpixel_keepsFaultOrRaises {x y : Nat} {p : Rgb} {s s' : State}
    (h : execFsetpixel x y p s = .next s') : KeepsFaultOrRaises s s' := by
  refine whenFrameOK_keepsFaultOrRaises h fun hb => ?_
  split at hb
  · exact .of_next hb rfl
  · exact .of_next hb (writeCallerPixel_fault x y p s)

/-- Every command that answers has kept FAULT, or has raised one fault and done nothing else (R346). -/
theorem exec_keepsFaultOrRaises {i : Instr} {s s' : State} (h : exec i s = .next s') : KeepsFaultOrRaises s s' := by
  cases i with
  | nop => exact .of_next h rfl
  | init => exact execInit_keepsFaultOrRaises h
  | shutdown => exact execShutdown_keepsFaultOrRaises h
  | setbright percent => exact whenLive_keepsFaultOrRaises h fun hb => .of_next hb rfl
  | getbright => exact whenLive_keepsFaultOrRaises h fun hb => .of_next hb rfl
  | setpixel x y colour => exact execSetpixel_keepsFaultOrRaises h
  | fill colour => exact whenLive_keepsFaultOrRaises h renderTarget_keepsFaultOrRaises
  | update => exact whenLive_keepsFaultOrRaises h fun hb => .of_next hb (flipAndAdvance_fault s)
  | updateB => exact whenLive_keepsFaultOrRaises h fun hb => .of_next hb (flipAndAdvance_fault s)
  | encodeframe =>
    exact whenLive_keepsFaultOrRaises h fun hb => whenFrameOK_keepsFaultOrRaises hb renderTarget_keepsFaultOrRaises
  | fupdate =>
    exact whenLive_keepsFaultOrRaises h fun hb => whenFrameOK_keepsFaultOrRaises hb fun hb => .of_next hb rfl
  | setframebase addr => exact .of_next h rfl
  | fsetpixel x y colour => exact execFsetpixel_keepsFaultOrRaises h
  | ffill colour => exact whenFrameOK_keepsFaultOrRaises h fun hb => .of_next hb (fillCallerFrame_fault colour s)
  | fclear => exact whenFrameOK_keepsFaultOrRaises h fun hb => .of_next hb (clearCallerFrame_fault s)
  | reservedE =>
    cases h
    exact keepsFaultOrRaises_raiseFault _ s
  | reservedF =>
    cases h
    exact keepsFaultOrRaises_raiseFault _ s

/-- The same of a presented word, which a wait turns into F_CONCURRENT (R350). -/
theorem presentCommand_keepsFaultOrRaises {w : CommandWord} {s s' : State} (h : presentCommand w s = .next s') :
    KeepsFaultOrRaises s s' := by
  rcases presentCommand_eq_next h with ⟨-, he⟩ | ⟨-, rfl⟩
  · exact exec_keepsFaultOrRaises he
  · exact keepsFaultOrRaises_raiseFault _ s

/-- Settles O12: a command keeps FAULT or raises one fault and does nothing else, and this one has not kept it. -/
theorem faultingCommandChangesOneBit : Obligations.FaultingCommandChangesOneBit := by
  intro w s s' h hchanged
  exact (presentCommand_keepsFaultOrRaises h).resolve_left hchanged

end Sys2Proof.Machine

/-! SUPPORT. The sums of the plan builder's cost functions (R181, R183) over all bitplanes above the transition bit. -/

namespace Sys2Proof.Machine

/-- `Σ_{k<n} 2^k = 2^n - 1`. -/
theorem sum_range_two_pow (n : Nat) : ((List.range n).map fun k => 2 ^ k).sum + 1 = 2 ^ n := by
  induction n with
  | zero => rfl
  | succ n ih =>
    rw [List.sum_range_succ]
    omega

/-- `Σ_{k<n} 2^k (n - k) = 2^(n+1) - n - 2`: each term but the first doubles a term of the sum for `n - 1`. -/
theorem sum_range_two_pow_mul_sub (n : Nat) :
    ((List.range n).map fun k => 2 ^ k * (n - k)).sum + n + 2 = 2 ^ (n + 1) := by
  induction n with
  | zero => rfl
  | succ n ih =>
    have hterm (k : Nat) : 2 ^ (k + 1) * (n + 1 - (k + 1)) = 2 * (2 ^ k * (n - k)) := by
      rw [Nat.add_sub_add_right, Nat.pow_succ']
      exact Nat.mul_assoc ..
    rw [List.sum_range_succ']
    simp only [Nat.succ_eq_add_one, hterm, List.sum_map_mul_left]
    omega

/-- A sum from `t + 1` whose terms are written by the distance to `t + 1`. -/
theorem sumFrom_succ_eq {t hi : Nat} {f g : Nat → Nat} (hfg : ∀ k, f (t + 1 + k) = g k) :
    sumFrom (t + 1) hi f = ((List.range (hi - t)).map g).sum := by
  simp only [sumFrom, hfg, Nat.add_sub_add_right]

/-- The descriptors of a row (R181): one for the bitplanes up to `t`, and `2^(7-t) - 1` for those above. -/
theorem descriptorsPerRow_eq (t : Nat) : descriptorsPerRow t = 2 ^ (7 - t) := by
  have hsum : sumFrom (t + 1) (depth - 1) (fun i => 2 ^ (i - t - 1)) = ((List.range (7 - t)).map fun k => 2 ^ k).sum :=
    sumFrom_succ_eq fun k => by rw [show t + 1 + k - t - 1 = k by omega]
  have hpow := sum_range_two_pow (7 - t)
  rw [descriptorsPerRow, hsum]
  omega

/-- The time of one row in units of one bitplane's latch time (R183). -/
theorem nsPerRow_eq (c : Config) {t : Nat} (ht : t < 8) : nsPerRow c t = c.latchNs * (2 ^ (8 - t) + t - 1) := by
  have hsum : sumFrom (t + 1) (depth - 1) (fun i => 2 ^ (i - t - 1) * (depth - i) * c.latchNs) =
      ((List.range (7 - t)).map fun k => 2 ^ k * (7 - t - k) * c.latchNs).sum :=
    sumFrom_succ_eq fun k => by
      rw [depth_eq, show t + 1 + k - t - 1 = k by omega, show 8 - (t + 1 + k) = 7 - t - k by omega]
  have hpow := sum_range_two_pow_mul_sub (7 - t)
  rw [show 7 - t + 1 = 8 - t by omega] at hpow
  rw [nsPerRow, hsum, List.sum_map_mul_right, depth_eq, ← Nat.add_mul, Nat.mul_comm]
  congr 1
  omega

theorem ramRequired_eq (c : Config) (t : Nat) : ramRequired c t = 2 ^ (7 - t) * rows c * 2 * c.descSize := by
  rw [ramRequired, descriptorsPerRow_eq, nbuf]

/-- Settles O42: R181 and R183 are the two sums above, and R182 and R184 are computed from them. -/
theorem costFunctionsInClosedForm : Obligations.CostFunctionsInClosedForm := by
  intro c t ht
  refine ⟨descriptorsPerRow_eq t, ramRequired_eq c t, nsPerRow_eq c ht, ?_⟩
  rw [refreshRate, nsPerRow_eq c ht]

end Sys2Proof.Machine

/-! SUPPORT. Configuration and output (R31, R48): no command and no wait step writes either, and a word step appends one
word to OUT. -/

namespace Sys2Proof.Machine

/-- The configuration and OUT are the same in both states. -/
structure SameCfgOut (s s' : State) : Prop where
  cfg : s'.cfg = s.cfg
  out : s'.out = s.out

theorem sameCfgOut_raiseFault (f : FaultBit) (s : State) : SameCfgOut s (raiseFault f s) := ⟨rfl, rfl⟩

theorem SameCfgOut.of_next {s s' u : State} (h : (.next u : Result) = .next s') (hu : SameCfgOut s u) :
    SameCfgOut s s' := by
  cases h
  exact hu

theorem whenLive_sameCfgOut {s s' : State} {body : Result} (h : whenLive s body = .next s')
    (hbody : body = .next s' → SameCfgOut s s') : SameCfgOut s s' := by
  rcases whenLive_eq_next h with ⟨-, hb⟩ | ⟨-, rfl⟩
  · exact hbody hb
  · exact sameCfgOut_raiseFault _ s

theorem whenFrameOK_sameCfgOut {s s' : State} {body : Result} (h : whenFrameOK s body = .next s')
    (hbody : body = .next s' → SameCfgOut s s') : SameCfgOut s s' := by
  rcases whenFrameOK_eq_next h with ⟨-, hb⟩ | ⟨-, rfl⟩
  · exact hbody hb
  · exact sameCfgOut_raiseFault _ s

theorem renderTarget_sameCfgOut {pixel : Nat → Nat → Rgb} {s s' : State} (h : renderTarget pixel s = .next s') :
    SameCfgOut s s' := by
  obtain ⟨f, -, rfl⟩ := renderTarget_eq_next h
  exact ⟨rfl, rfl⟩

theorem runInit_sameCfgOut (s : State) : SameCfgOut s (runInit s) := by
  unfold runInit
  split
  · exact ⟨by simp, by simp⟩
  · exact ⟨by simp, by simp⟩

theorem execInit_sameCfgOut {s s' : State} (h : execInit s = .next s') : SameCfgOut s s' := by
  unfold execInit at h
  split at h
  · exact .of_next h (sameCfgOut_raiseFault _ s)
  · exact .of_next h (runInit_sameCfgOut s)

theorem execShutdown_sameCfgOut {s s' : State} (h : execShutdown s = .next s') : SameCfgOut s s' := by
  unfold execShutdown at h
  split at h
  · exact .of_next h ⟨rfl, rfl⟩
  · exact .of_next h ⟨rfl, rfl⟩

theorem execSetpixel_sameCfgOut {x y : Nat} {p : Rgb} {s s' : State} (h : execSetpixel x y p s = .next s') :
    SameCfgOut s s' := by
  rcases execSetpixel_eq_next h with ⟨-, rfl⟩ | ⟨-, -, rfl⟩ | ⟨-, -, f, f', -, -, rfl⟩
  · exact sameCfgOut_raiseFault _ s
  · exact ⟨rfl, rfl⟩
  · exact ⟨rfl, rfl⟩

theorem execFsetpixel_sameCfgOut {x y : Nat} {p : Rgb} {s s' : State} (h : execFsetpixel x y p s = .next s') :
    SameCfgOut s s' := by
  refine whenFrameOK_sameCfgOut h fun hb => ?_
  split at hb
  · exact .of_next hb ⟨rfl, rfl⟩
  · exact .of_next hb ⟨rfl, rfl⟩

theorem fillCallerFrame_sameCfgOut (p : Rgb) (s : State) : SameCfgOut s (fillCallerFrame p s) := by
  rw [fillCallerFrame_eq]
  exact ⟨rfl, rfl⟩

theorem clearCallerFrame_sameCfgOut (s : State) : SameCfgOut s (clearCallerFrame s) := by
  rw [clearCallerFrame_eq]
  exact ⟨rfl, rfl⟩

/-- No command writes the configuration (R31) or OUT (R48). -/
theorem exec_sameCfgOut {i : Instr} {s s' : State} (h : exec i s = .next s') : SameCfgOut s s' := by
  cases i with
  | nop => exact .of_next h ⟨rfl, rfl⟩
  | init => exact execInit_sameCfgOut h
  | shutdown => exact execShutdown_sameCfgOut h
  | setbright percent => exact whenLive_sameCfgOut h fun hb => .of_next hb ⟨rfl, rfl⟩
  | getbright => exact whenLive_sameCfgOut h fun hb => .of_next hb ⟨rfl, rfl⟩
  | setpixel x y colour => exact execSetpixel_sameCfgOut h
  | fill colour => exact whenLive_sameCfgOut h renderTarget_sameCfgOut
  | update => exact whenLive_sameCfgOut h fun hb => .of_next hb ⟨rfl, rfl⟩
  | updateB => exact whenLive_sameCfgOut h fun hb => .of_next hb ⟨rfl, rfl⟩
  | encodeframe =>
    exact whenLive_sameCfgOut h fun hb => whenFrameOK_sameCfgOut hb renderTarget_sameCfgOut
  | fupdate =>
    exact whenLive_sameCfgOut h fun hb => whenFrameOK_sameCfgOut hb fun hb => .of_next hb ⟨rfl, rfl⟩
  | setframebase addr => exact .of_next h ⟨rfl, rfl⟩
  | fsetpixel x y colour => exact execFsetpixel_sameCfgOut h
  | ffill colour => exact whenFrameOK_sameCfgOut h fun hb => .of_next hb (fillCallerFrame_sameCfgOut colour s)
  | fclear => exact whenFrameOK_sameCfgOut h fun hb => .of_next hb (clearCallerFrame_sameCfgOut s)
  | reservedE => exact .of_next h (sameCfgOut_raiseFault _ s)
  | reservedF => exact .of_next h (sameCfgOut_raiseFault _ s)

theorem presentCommand_sameCfgOut {w : CommandWord} {s s' : State} (h : presentCommand w s = .next s') :
    SameCfgOut s s' := by
  rcases presentCommand_eq_next h with ⟨-, he⟩ | ⟨-, rfl⟩
  · exact exec_sameCfgOut he
  · exact sameCfgOut_raiseFault _ s

theorem finishFupdate_sameCfgOut {s s' : State} (h : finishFupdate s = .next s') : SameCfgOut s s' := by
  obtain ⟨-, u, hu, rfl⟩ := finishFupdate_eq_next h
  obtain ⟨hcfg, hout⟩ := renderTarget_sameCfgOut hu
  exact ⟨hcfg, hout⟩

theorem waitStep_sameCfgOut {s s' : State} (h : waitStep s = .next s') : SameCfgOut s s' := by
  rcases waitStep_eq_next h with ⟨-, rfl⟩ | ⟨-, -, rfl⟩ | ⟨-, -, hf⟩
  · exact ⟨rfl, rfl⟩
  · exact ⟨rfl, rfl⟩
  · obtain ⟨hcfg, hout⟩ := finishFupdate_sameCfgOut hf
    exact ⟨hcfg, hout⟩

@[simp] theorem advance_cfg (d : Descriptor) (s : State) : (advance d s).cfg = s.cfg :=
  (congrArg State.cfg (advance_eq d s).1 :)

@[simp] theorem advance_out (d : Descriptor) (s : State) : (advance d s).out = s.out :=
  (congrArg State.out (advance_eq d s).1 :)

/-- Settles O48: only a word step of a running agent reaches `emit`, which appends its one word (R313, R315). -/
theorem outputOnlyGrows : Obligations.OutputOnlyGrows := by
  intro turn s s' hturn h
  cases turn with
  | command w => exact .inl (presentCommand_sameCfgOut h).out
  | wait => exact .inl (waitStep_sameCfgOut h).out
  | replay =>
    rcases replayStep_eq_next h with ⟨-, rfl⟩ | ⟨hrun, ds, d, f, w, -, -, -, -, rfl⟩
    · exact .inl rfl
    · exact .inr ⟨rfl, hrun, w, by simp⟩
  | powerOn => exact absurd rfl hturn

/-- No turn changes the configuration, power-on reset included (R31). -/
theorem turnStep_cfg {turn : Turn} {s s' : State} (h : turnStep turn s = .next s') : s'.cfg = s.cfg := by
  cases turn with
  | command w => exact (presentCommand_sameCfgOut h).cfg
  | wait => exact (waitStep_sameCfgOut h).cfg
  | replay =>
    rcases replayStep_eq_next h with ⟨-, rfl⟩ | ⟨-, ds, d, f, w, -, -, -, -, rfl⟩
    · rfl
    · simp
  | powerOn =>
    cases h
    exact powerOn_cfg s

/-- Settles O57: using up the turn keeps the configuration, and so does the turn. -/
theorem configurationNeverChanges : Obligations.ConfigurationNeverChanges := by
  intro s s' h
  exact (turnStep_cfg h).trans (dropTurn_cfg s)

end Sys2Proof.Machine

/-! SUPPORT. The reset state is an idle one (R50). -/

namespace Sys2Proof.Machine

/-- Settles O58: at reset host memory holds nothing but its power-on content, and the block is idle. -/
theorem invariantHoldsAtReset : Obligations.InvariantHoldsAtReset where
  memory := memWf_reset
  code := by decide
  whenLive hlive := absurd hlive (by decide)
  whenIdle _ := {
    stopped := rfl
    stores := ⟨rfl, rfl⟩
    registers := ⟨rfl, rfl, rfl, rfl, rfl, rfl, rfl, rfl, rfl, rfl⟩
    noWait := rfl }
  waiting hwait := absurd hwait (by decide)

end Sys2Proof.Machine

/-! SUPPORT. The register window (R47): a field of a register is a run of bits of appended words, and the values that a
field holds as a number fit it. -/

namespace Sys2Proof.Machine

section
variable {n m lo len : Nat} (x : BitVec n) (y : BitVec m)

/-- `extract_append_high` as a rule for `simp`: the sum of two literal widths is itself a literal to `simp`'s index, so
the index must not look at it. -/
@[simp] theorem extract_append_high_of_literals (h : m ≤ lo) :
    (HAppend.hAppend (γ := BitVec (no_index (n + m))) x y).extractLsb' lo len = x.extractLsb' (lo - m) len :=
  extract_append_high x y h

/-- `extract_append_low` as a rule for `simp`, in the same way. -/
@[simp] theorem extract_append_low_of_literals (h : lo + len ≤ m) :
    (HAppend.hAppend (γ := BitVec (no_index (n + m))) x y).extractLsb' lo len = y.extractLsb' lo len :=
  extract_append_low x y h

end

@[simp] theorem idxBit_toNat (b : BufIdx) : (idxBit b).toNat = b.val := by
  rw [idxBit, BitVec.toNat_ofNat, Nat.mod_eq_of_lt (by omega)]

/-- DPR(T) is at most 2^7, so PLAN's field holds it whole (R47, R181). -/
@[simp] theorem planDescriptors_toNat (s : State) :
    (planDescriptors s).toNat = if s.live then descriptorsPerRow s.t.toNat else 0 := by
  have hdpr : descriptorsPerRow s.t.toNat < 2 ^ 8 := by
    rw [descriptorsPerRow_eq]
    exact Nat.pow_lt_pow_right (by decide) (by omega)
  rw [planDescriptors]
  split
  · rw [BitVec.toNat_ofNat, Nat.mod_eq_of_lt hdpr]
  · rfl

theorem window_of_not_listed (s : State) {off : Nat} (hoff : 0x2C ≤ off) : window s off = 0 := by
  rw [window] <;> omega

/-- A state that power-on reset leaves, from the start or in use, is one that a reset in use leaves. -/
theorem eq_powerOn_of_reset {s : State} (h : s = State.reset ∨ ∃ u, turnStep .powerOn u = .next s) :
    ∃ u, s = powerOn u := by
  rcases h with rfl | ⟨u, hu⟩
  · exact ⟨State.reset, rfl⟩
  · cases hu
    exact ⟨u, rfl⟩

/-- R381: every field of these registers is one that reset clears. -/
theorem window_powerOn (u : State) :
    ∀ off ∈ [0x00, 0x04, 0x08, 0x0C, 0x10, 0x14, 0x18, 0x1C, 0x20], window (powerOn u) off = 0 := by
  intro off hoff
  fin_cases hoff <;> simp [window, planDescriptors, phaseBits, idxBit]

/-- Settles O55: register by register, each field is read off its place among the appended words. Where a case ends in
`rfl`, what is left is that `phaseBits` or `corrModeBits` is the statement's own match. -/
theorem windowAfterReset : Obligations.WindowAfterReset := by
  refine ⟨fun s => ⟨?status, ?fault, ?hazard, rfl, ?bright, ?bufs, ?plan, ?dmapos, rfl, ?geom, ?cfg, ?unlisted⟩,
    ?reset⟩
  case status => simp [window]
  case fault => simp [window]
  case hazard => simp [window]
  case bright => simp [window]
  case bufs =>
    simp [window]
    rfl
  case plan => simp [window]
  case dmapos => simp [window]
  case geom => simp [window]
  case cfg =>
    simp [window, depth_eq]
    rfl
  case unlisted => exact fun off _ hoff => window_of_not_listed s hoff
  case reset =>
    intro s hs
    obtain ⟨u, rfl⟩ := eq_powerOn_of_reset hs
    exact window_powerOn u

end Sys2Proof.Machine

/-! SUPPORT. The decoder, one equation for each value of OPC (R114), and what each operand field is read from (R113). -/

namespace Sys2Proof

section
variable {w : CommandWord}

@[simp] theorem decode_eq_nop (h : fieldOpc w = 0x0#4) : decode w = .nop := by simp [decode, h]
@[simp] theorem decode_eq_init (h : fieldOpc w = 0x1#4) : decode w = .init := by simp [decode, h]
@[simp] theorem decode_eq_shutdown (h : fieldOpc w = 0x2#4) : decode w = .shutdown := by simp [decode, h]
@[simp] theorem decode_eq_setbright (h : fieldOpc w = 0x3#4) : decode w = .setbright (fieldVal w).toInt := by
  simp [decode, h]
@[simp] theorem decode_eq_getbright (h : fieldOpc w = 0x4#4) : decode w = .getbright := by simp [decode, h]
@[simp] theorem decode_eq_setpixel (h : fieldOpc w = 0x5#4) :
    decode w = .setpixel (fieldX w) (fieldY w) (fieldRgb w) := by simp [decode, h]
@[simp] theorem decode_eq_fill (h : fieldOpc w = 0x6#4) : decode w = .fill (fieldRgb w) := by simp [decode, h]
@[simp] theorem decode_eq_update_or_updateB (h : fieldOpc w = 0x7#4) :
    decode w = if fieldBlk w then .updateB else .update := by simp [decode, h]
@[simp] theorem decode_eq_encodeframe (h : fieldOpc w = 0x8#4) : decode w = .encodeframe := by simp [decode, h]
@[simp] theorem decode_eq_fupdate (h : fieldOpc w = 0x9#4) : decode w = .fupdate := by simp [decode, h]
@[simp] theorem decode_eq_setframebase (h : fieldOpc w = 0xA#4) : decode w = .setframebase (fieldVal w) := by
  simp [decode, h]
@[simp] theorem decode_eq_fsetpixel (h : fieldOpc w = 0xB#4) :
    decode w = .fsetpixel (fieldX w) (fieldY w) (fieldRgb w) := by simp [decode, h]
@[simp] theorem decode_eq_ffill (h : fieldOpc w = 0xC#4) : decode w = .ffill (fieldRgb w) := by simp [decode, h]
@[simp] theorem decode_eq_fclear (h : fieldOpc w = 0xD#4) : decode w = .fclear := by simp [decode, h]
@[simp] theorem decode_eq_reservedE (h : fieldOpc w = 0xE#4) : decode w = .reservedE := by simp [decode, h]
@[simp] theorem decode_eq_reservedF (h : fieldOpc w = 0xF#4) : decode w = .reservedF := by simp [decode, h]

end

theorem coordinateFits_iff {n : Nat} : coordinateFits n = true ↔ n < 2 ^ 16 := by simp [coordinateFits]

theorem percentFits_iff {p : Int} : percentFits p = true ↔ -2 ^ 31 ≤ p ∧ p < 2 ^ 31 := by simp [percentFits]

@[simp] theorem coordinateFits_fieldX (w : CommandWord) : coordinateFits (fieldX w) = true :=
  coordinateFits_iff.2 (BitVec.isLt _)

@[simp] theorem coordinateFits_fieldY (w : CommandWord) : coordinateFits (fieldY w) = true :=
  coordinateFits_iff.2 (BitVec.isLt _)

theorem fieldX_wordP_of_fits {o : BitVec 4} {x y : Nat} {c : Rgb} (h : coordinateFits x = true) :
    fieldX (wordP o x y c) = x := by rw [fieldX_wordP, Nat.mod_eq_of_lt (coordinateFits_iff.1 h)]

theorem fieldY_wordP_of_fits {o : BitVec 4} {x y : Nat} {c : Rgb} (h : coordinateFits y = true) :
    fieldY (wordP o x y c) = y := by rw [fieldY_wordP, Nat.mod_eq_of_lt (coordinateFits_iff.1 h)]

/-- VAL holds every percent that SETBRIGHT can carry. -/
@[simp] theorem percentFits_toInt (v : BitVec 32) : percentFits v.toInt = true :=
  percentFits_iff.2 ⟨v.le_toInt, v.toInt_lt⟩

section
variable {w v : CommandWord}

/-- A field within the low `n` bits is the same in words that agree there. -/
theorem extract_eq_of_low_eq {n lo len : Nat} (h : w.extractLsb' 0 n = v.extractLsb' 0 n) (hlo : lo + len ≤ n) :
    w.extractLsb' lo len = v.extractLsb' lo len := by
  rw [← BitVec.extractLsb'_extractLsb'_of_le hlo, h, BitVec.extractLsb'_extractLsb'_of_le hlo]

/-- The colour is in the low 24 bits (R111). -/
theorem fieldRgb_eq_of_low24 (h : w.extractLsb' 0 24 = v.extractLsb' 0 24) : fieldRgb w = fieldRgb v := by
  rw [fieldRgb, extract_eq_of_low_eq h (lo := 16) (by decide), extract_eq_of_low_eq h (lo := 8) (by decide),
    extract_eq_of_low_eq h (lo := 0) (by decide), fieldRgb]

/-- X, Y and the colour are in the low 56 bits (R111). -/
theorem pixelFields_eq_of_low56 (h : w.extractLsb' 0 56 = v.extractLsb' 0 56) :
    fieldX w = fieldX v ∧ fieldY w = fieldY v ∧ fieldRgb w = fieldRgb v := by
  refine ⟨?_, ?_, fieldRgb_eq_of_low24 (extract_eq_of_low_eq h (by decide))⟩
  · rw [fieldX, extract_eq_of_low_eq h (by decide), fieldX]
  · rw [fieldY, extract_eq_of_low_eq h (by decide), fieldY]

end

/-- Settles O2: each format's assembled word carries OPC and the operands in the fields its decoder reads, and an
operand that fits its field is read back whole. -/
theorem decodeEncodeRoundTrip : Obligations.DecodeEncodeRoundTrip := by
  intro i hi
  cases i with
  | nop => exact decode_eq_nop Laws.AssembledOpcode.nop
  | init => exact decode_eq_init Laws.AssembledOpcode.init
  | shutdown => exact decode_eq_shutdown Laws.AssembledOpcode.shutdown
  | setbright p =>
    obtain ⟨hlo, hhi⟩ := percentFits_iff.1 hi
    rw [decode_eq_setbright (Laws.AssembledOpcode.setbright p), encode, fieldVal_wordV,
      BitVec.toInt_ofInt_eq_self (by decide) hlo hhi]
  | getbright => exact decode_eq_getbright Laws.AssembledOpcode.getbright
  | setpixel x y c =>
    obtain ⟨hx, hy⟩ := Bool.and_eq_true_iff.1 hi
    rw [decode_eq_setpixel (Laws.AssembledOpcode.setpixel x y c), encode, fieldX_wordP_of_fits hx,
      fieldY_wordP_of_fits hy, fieldRgb_wordP]
  | fill c => rw [decode_eq_fill (Laws.AssembledOpcode.fill c), encode, fieldRgb_wordC]
  | update => simp [encode]
  | updateB => simp [encode]
  | encodeframe => exact decode_eq_encodeframe Laws.AssembledOpcode.encodeframe
  | fupdate => exact decode_eq_fupdate Laws.AssembledOpcode.fupdate
  | setframebase a => rw [decode_eq_setframebase (Laws.AssembledOpcode.setframebase a), encode, fieldVal_wordV]
  | fsetpixel x y c =>
    obtain ⟨hx, hy⟩ := Bool.and_eq_true_iff.1 hi
    rw [decode_eq_fsetpixel (Laws.AssembledOpcode.fsetpixel x y c), encode, fieldX_wordP_of_fits hx,
      fieldY_wordP_of_fits hy, fieldRgb_wordP]
  | ffill c => rw [decode_eq_ffill (Laws.AssembledOpcode.ffill c), encode, fieldRgb_wordC]
  | fclear => exact decode_eq_fclear Laws.AssembledOpcode.fclear
  | reservedE => exact decode_eq_reservedE Laws.AssembledOpcode.reservedE
  | reservedF => exact decode_eq_reservedF Laws.AssembledOpcode.reservedF

/-- What a word decodes to has operands that fit, since they were read from their fields (R113, R115). -/
theorem wellFormed_decode (w : CommandWord) : (decode w).wellFormed = true := by
  fun_cases decode w
  case case4 => exact percentFits_toInt (fieldVal w) -- SETBRIGHT
  case case6 | case13 => -- SETPIXEL and FSETPIXEL
    rw [Instr.wellFormed, coordinateFits_fieldX, coordinateFits_fieldY, Bool.and_self]
  all_goals rfl

/-- Settles O3: the decoded command is well-formed, so the round trip applies to it. -/
theorem decodedCommandsAreWellFormed : Obligations.DecodedCommandsAreWellFormed := fun w =>
  have hwf := wellFormed_decode w
  ⟨hwf, decodeEncodeRoundTrip (decode w) hwf⟩

/-- Settles O4: format by format, the two words have the same equation of the decoder, and its fields are equal. -/
theorem ignoredFieldsSelectNothing : Obligations.IgnoredFieldsSelectNothing := by
  intro w v hopc
  simp only [List.mem_cons, List.not_mem_nil, or_false]
  refine ⟨?formatN, ?formatU, ?formatC, ?formatV, ?formatP⟩
  case formatN =>
    rintro (h | h | h | h | h | h | h | h | h) <;> simp [h, ← hopc]
  case formatU =>
    intro h (hblk : fieldBlk w = fieldBlk v)
    simp [h, ← hopc, hblk]
  case formatC =>
    intro h hlow
    have hrgb := fieldRgb_eq_of_low24 hlow
    rcases h with h | h <;> simp [h, ← hopc, hrgb]
  case formatV =>
    intro h (hval : fieldVal w = fieldVal v)
    rcases h with h | h <;> simp [h, ← hopc, hval]
  case formatP =>
    intro h hlow
    obtain ⟨hx, hy, hrgb⟩ := pixelFields_eq_of_low56 hlow
    rcases h with h | h <;> simp [h, ← hopc, hx, hy, hrgb]

/-- Settles O1: ten closed words, whose fields are computed. -/
theorem decodeReadsWrittenWords : Obligations.DecodeReadsWrittenWords := by
  unfold Obligations.DecodeReadsWrittenWords
  decide

end Sys2Proof

/-! SUPPORT. The command port (R110): outside a wait it runs the decoded command, during a wait it rejects any word. -/

namespace Sys2Proof.Machine

theorem presentCommand_of_idle (w : CommandWord) {s : State} (h : s.phase = .idle) :
    presentCommand w s = exec (decode w) s := by simp [presentCommand, h]

theorem presentCommand_of_waiting (w : CommandWord) {s : State} (h : s.phase ≠ .idle) :
    presentCommand w s = .next (raiseFault .concurrent s) := by
  unfold presentCommand
  split
  · exact absurd ‹_› h
  · rfl
  · rfl

/-- Presenting a whole word queues a command turn of that word (log entry 4). -/
theorem withFetchWord_toNat (s : State) (w : CommandWord) :
    s.withFetchWord 64 w.toNat = { s with turns := .command w :: s.turns } := by
  rw [State.withFetchWord, Nat.mod_eq_of_lt w.isLt, BitVec.ofNat_toNat, BitVec.setWidth_eq]

/-- A queued command turn runs the decoded command, on the state with that turn used up (R110). -/
theorem step_command_of_idle {s : State} {w : CommandWord} {ts : List Turn} (hturns : s.turns = .command w :: ts)
    (hidle : s.phase = .idle) : step s = exec (decode w) { s with turns := ts } := by
  rw [step_of_turn hturns]
  exact presentCommand_of_idle w hidle

/-- Settles O5: the queued turn is a command turn, and the round trip gives the assembled command back. -/
theorem stepRunsThePresentedCommand : Obligations.StepRunsThePresentedCommand := by
  refine ⟨fun s w ts => step_command_of_idle, fun s i hidle hwf => ?_⟩
  calc step (s.withFetchWord 64 (encode i).toNat)
    _ = step { s with turns := .command (encode i) :: s.turns } := by rw [withFetchWord_toNat]
    _ = exec (decode (encode i)) s := step_command_of_idle rfl hidle
    _ = exec i s := by rw [decodeEncodeRoundTrip i hwf]

/-- Settles O6: during a wait the port raises F_CONCURRENT before it decodes, and that is bit 3 of FAULT alone. -/
theorem commandDuringAWaitIsRejected : Obligations.CommandDuringAWaitIsRejected := by
  intro s w ts hturns hwait
  rw [step_of_turn hturns]
  exact presentCommand_of_waiting w hwait

end Sys2Proof.Machine

/-! SUPPORT. The base word read signal by signal (R141 to R146), where LAYOUT gives each signal a bit of its own. -/

namespace Sys2Proof.Machine

/-- When OE blanks a column (R144 to R146), with R145's halved threshold as a quotient. -/
theorem oeBit_iff (c : Config) (t duty j x : Nat) :
    oeBit c t duty j x = true ↔
      ((j = 0 ∨ t < j) ∧ duty ≤ x) ∨ ((1 ≤ j ∧ j ≤ t) ∧ duty / 2 ^ (t - j + 1) ≤ x) ∨ x = 0 ∨ x = c.w - 1 := by
  simp only [oeBit, oeCoarse, oeFine, Bool.or_eq_true, Bool.and_eq_true, decide_eq_true_eq, Nat.shiftRight_eq_div_pow,
    or_assoc]

/-- The base word at each signal of a lawful layout: no colour, then LAT, OE and the row address from A to E (R141). -/
theorem map_getLsbD_baseWord {c : Config} (h : layoutLawful c.layout = true) (t duty r j x : Nat) :
    (layoutPositions c.layout).map (baseWord c t duty r j x).getLsbD =
      List.replicate 6 false ++ decide (x = c.w - 1) :: oeBit c t duty j x ::
        (List.range 5).map fun i => (rowAddr c r j % 32).toNat.testBit i := by
  obtain ⟨hlt, hnd⟩ := layoutLawful_iff.1 h
  simp only [layoutPositions, List.nodup_cons, List.mem_cons, List.not_mem_nil, or_false, not_or] at hnd
  simp only [layoutPositions, List.forall_mem_cons] at hlt
  simp [layoutPositions, getLsbD_baseWord, List.range_succ, List.replicate_succ]
  grind

/-- Settles O16: the signals' bits are read off one after the other, and the base word sets no other bit. -/
theorem baseWordCarriesAddressBlankingAndLatch : Obligations.BaseWordCarriesAddressBlankingAndLatch := by
  intro c t duty r j x h
  obtain ⟨hr1, hg1, hb1, hr2, hg2, hb2, hlat, hoe, haddr⟩ :
      _ ∧ _ ∧ _ ∧ _ ∧ _ ∧ _ ∧ _ ∧ _ ∧ _ := by
    simpa only [layoutPositions, List.map_cons, List.replicate, List.cons_append, List.nil_append, List.cons.injEq]
      using map_getLsbD_baseWord h t duty r j x
  refine ⟨?_, ?_, haddr, ?_, fun p hp => (unused_of_composed c t duty r j x p ⟨0, 0, 0⟩ hp).1⟩
  · rw [hoe, oeBit_iff]
  · rw [hlat, decide_eq_true_eq]
  · simp only [List.forall_mem_cons]
    exact ⟨hr1, hg1, hb1, hr2, hg2, hb2, by simp⟩

end Sys2Proof.Machine

/-! SUPPORT. Panel halves: the signals, mask and colour bits of each, so that one argument serves both (R104, R140). -/

namespace Sys2Proof.Machine

/-- The half that shares a pixel's words (R140, R150). -/
def Half.other : Half → Half
  | .one => .two
  | .two => .one

/-- The positions of a half's red, green and blue signals (R100). -/
def halfSignals (l : Layout) : Half → Nat × Nat × Nat
  | .one => (l.r1, l.g1, l.b1)
  | .two => (l.r2, l.g2, l.b2)

/-- A half's colour mask, `C1MASK` or `C2MASK` (R104). -/
def halfMask (l : Layout) : Half → Word
  | .one => c1Mask l
  | .two => c2Mask l

/-- A half's colour bits, `rgb1` or `rgb2` (R104). -/
def halfRgb (l : Layout) : Half → Rgb → Nat → Word
  | .one => rgb1 l
  | .two => rgb2 l

@[simp] theorem Half.other_other (half : Half) : half.other.other = half := by cases half <;> rfl

theorem Half.eq_other_of_ne {half half' : Half} (h : half' ≠ half) : half' = half.other := by
  revert h
  cases half <;> cases half' <;> decide

/-- A half's mask has its three signals' bits (R104). -/
theorem halfMask_eq (l : Layout) (half : Half) :
    halfMask l half = signalBit (halfSignals l half).1 ||| signalBit (halfSignals l half).2.1 |||
      signalBit (halfSignals l half).2.2 := by
  cases half <;> rfl

/-- A half's colour bits stand on its three signals (R104). -/
theorem halfRgb_eq (l : Layout) (half : Half) (p : Rgb) (j : Nat) :
    halfRgb l half p j = signalWhen (p.r.getLsbD j) (halfSignals l half).1 |||
      signalWhen (p.g.getLsbD j) (halfSignals l half).2.1 |||
      signalWhen (p.b.getLsbD j) (halfSignals l half).2.2 := by
  cases half <;> rfl

/-- With a lawful layout a half's signals are three different bits of the word (R100). -/
theorem halfSignals_lawful {l : Layout} (h : layoutLawful l = true) (half : Half) :
    ((halfSignals l half).1 < 16 ∧ (halfSignals l half).2.1 < 16 ∧ (halfSignals l half).2.2 < 16) ∧
      [(halfSignals l half).1, (halfSignals l half).2.1, (halfSignals l half).2.2].Nodup := by
  obtain ⟨hlt, hnd⟩ := layoutLawful_iff.1 h
  simp only [layoutPositions, List.forall_mem_cons] at hlt
  obtain ⟨hr1, hg1, hb1, hr2, hg2, hb2, -⟩ := hlt
  cases half with
  | one => exact ⟨⟨hr1, hg1, hb1⟩, hnd.sublist (List.sublist_append_left [l.r1, l.g1, l.b1] _)⟩
  | two =>
    exact ⟨⟨hr2, hg2, hb2⟩, hnd.sublist
      ((List.sublist_append_left [l.r2, l.g2, l.b2] _).trans (List.drop_sublist 3 (layoutPositions l)))⟩

/-- The word SETPIXEL stores, for either half (R150). -/
theorem mergedWord_eq (c : Config) (t duty : Nat) (half : Half) (p : Rgb) (r j x : Nat) (old : Word) :
    mergedWord c t duty half p r j x old =
      baseWord c t duty r j x ||| halfRgb c.layout half (corrRgb c p) j ||| (old &&& halfMask c.layout half.other) := by
  cases half <;> rfl

/-- A stored word carries the pixel on its own half. -/
theorem mergedWord_and_halfMask {c : Config} (h : layoutLawful c.layout = true) (t duty : Nat) (half : Half) (p : Rgb)
    (r j x : Nat) (old : Word) :
    mergedWord c t duty half p r j x old &&& halfMask c.layout half = halfRgb c.layout half (corrRgb c p) j := by
  obtain ⟨hown, -, -, hown'⟩ := mergedWord_masks h t duty r j x p old
  cases half
  · exact hown
  · exact hown'

/-- A stored word keeps the old word's colour on the other half. -/
theorem mergedWord_and_halfMask_other {c : Config} (h : layoutLawful c.layout = true) (t duty : Nat) (half : Half)
    (p : Rgb) (r j x : Nat) (old : Word) :
    mergedWord c t duty half p r j x old &&& halfMask c.layout half.other = old &&& halfMask c.layout half.other := by
  obtain ⟨-, hkept, hkept', -⟩ := mergedWord_masks h t duty r j x p old
  cases half
  · exact hkept
  · exact hkept'

theorem pixelRow_snd (c : Config) (y : Nat) : (pixelRow c y).2 = if y < rows c then y else y - rows c := by
  unfold pixelRow
  split <;> rfl

theorem pixelRow_lt {c : Config} (hc : configOK c = true) {y : Nat} (hy : y < c.h) : (pixelRow c y).2 < rows c := by
  have hheight := (configOK_iff.1 hc).height
  rw [pixelRow_snd]
  split <;> omega

theorem pixelRow_inj {c : Config} {y v : Nat} (hhalf : (pixelRow c y).1 = (pixelRow c v).1)
    (hrow : (pixelRow c y).2 = (pixelRow c v).2) : y = v := by
  by_cases hy : y < rows c <;> by_cases hv : v < rows c <;> simp [pixelRow, hy, hv] at hhalf hrow <;> omega

/-- The pixel row that shares scan row and words with pixel row `y` is in the other half (R140). -/
theorem pixelRow_other {c : Config} {y : Nat} (hc : configOK c = true) (hy : y < c.h) :
    pixelRow c (if y < rows c then y + rows c else y - rows c) = ((pixelRow c y).1.other, (pixelRow c y).2) := by
  have hheight := (configOK_iff.1 hc).height
  by_cases h : y < rows c
  · simp [pixelRow, h, Half.other]
  · simp [pixelRow, h, Half.other, show y - rows c < rows c by omega]

end Sys2Proof.Machine

/-! SUPPORT. SETPIXEL of a pixel of the panel (R150): the column it replaces, and what it keeps. -/

namespace Sys2Proof.Machine

/-- What every encoder command leaves: `f` as the frame store, and the tear record made (R155, R392). -/
def withTarget (f : FrameStore) (s : State) : State := recordTear { s with fs := some f }

theorem withTarget_eq (f : FrameStore) (s : State) :
    withTarget f s = { s with fs := some f, hazard := s.hazard || hwOwns s s.widx } := rfl

@[simp] theorem withTarget_fs (f : FrameStore) (s : State) : (withTarget f s).fs = some f := rfl
@[simp] theorem withTarget_cfg (f : FrameStore) (s : State) : (withTarget f s).cfg = s.cfg := rfl
@[simp] theorem withTarget_live (f : FrameStore) (s : State) : (withTarget f s).live = s.live := rfl
@[simp] theorem withTarget_t (f : FrameStore) (s : State) : (withTarget f s).t = s.t := rfl
@[simp] theorem withTarget_duty (f : FrameStore) (s : State) : (withTarget f s).duty = s.duty := rfl
@[simp] theorem withTarget_widx (f : FrameStore) (s : State) : (withTarget f s).widx = s.widx := rfl

/-- The tear record is sticky (R43), and ownership is not a matter of what the buffers hold (R49). -/
@[simp] theorem withTarget_withTarget (f g : FrameStore) (s : State) :
    withTarget g (withTarget f s) = withTarget g s := by
  have howns : hwOwns (withTarget f s) (withTarget f s).widx = hwOwns s s.widx := rfl
  rw [withTarget_eq, howns]
  simp [withTarget_eq]

/-- A live block with its write target whole, under a configuration that INIT accepts: what the encoder writes to. -/
structure EncoderReady (s : State) (f : FrameStore) : Prop where
  live : s.live = true
  config : configOK s.cfg = true
  stores : s.fs = some f
  whole : (bufferOf f s.widx).length = bufferWords s.cfg

/-- Frame store `f'` is `f` with the column of pixel `(x, y)` replaced as SETPIXEL of `p` does (R150). -/
structure ColumnReplaced (s : State) (x y : Nat) (p : Rgb) (f f' : FrameStore) : Prop where
  other : bufferOf f' (s.widx + 1) = bufferOf f (s.widx + 1)
  length : (bufferOf f' s.widx).length = (bufferOf f s.widx).length
  column : ∀ j < depth, ∃ old, fsRead f s.widx (widx s.cfg (pixelRow s.cfg y).2 j (slot x)) = some old ∧
    fsRead f' s.widx (widx s.cfg (pixelRow s.cfg y).2 j (slot x)) =
      some (mergedWord s.cfg s.t.toNat s.duty.toNat (pixelRow s.cfg y).1 p (pixelRow s.cfg y).2 j x old)
  kept : ∀ i, (∀ j < depth, i ≠ widx s.cfg (pixelRow s.cfg y).2 j (slot x)) → fsRead f' s.widx i = fsRead f s.widx i

/-- SETPIXEL of a pixel of the panel replaces its column, makes the tear record, and does nothing else. -/
theorem exec_setpixel_of_inside {s : State} {f : FrameStore} (h : EncoderReady s f) {x y : Nat} (p : Rgb)
    (hx : x < s.cfg.w) (hy : y < s.cfg.h) :
    ∃ f', exec (.setpixel x y p) s = .next (withTarget f' s) ∧ ColumnReplaced s x y p f f' := by
  have hslot : slot x < s.cfg.w := slot_lt (configOK_iff.1 h.config).width_even hx
  have hexists : ∀ j < depth, widx s.cfg (pixelRow s.cfg y).2 j (slot x) < (bufferOf f s.widx).length :=
    fun j hj => h.whole ▸ widx_lt (pixelRow_lt h.config hy) hj hslot
  obtain ⟨f', hmerge, hother, hlength, hcolumn, hkept⟩ :=
    mergePlanes_eq_some s (pixelRow s.cfg y).1 p (pixelRow s.cfg y).2 x hslot (List.range depth) f
      (fun j hj => List.mem_range.1 hj) List.nodup_range (fun j hj => hexists j (List.mem_range.1 hj))
  have hin : outOfRange s.cfg x y = false := by simp [outOfRange, hx, hy]
  refine ⟨f', ?_, hother, hlength, fun j hj => ?_, fun i hi => hkept i fun j hj => hi j (List.mem_range.1 hj)⟩
  · calc exec (.setpixel x y p) s
      _ = execSetpixel x y p s := rfl
      _ = .next (withTarget f' s) := by
        rw [execSetpixel, whenLive_of_live _ h.live, hin, h.stores]
        simp [hmerge, withTarget]
  · have hold := List.getElem?_eq_getElem (hexists j hj)
    refine ⟨_, hold, ?_⟩
    rw [hcolumn j (List.mem_range.2 hj), fsRead, hold, Option.map_some]

/-- Settles O18: the replaced column, with the half and the scan row of the pixel written out. -/
theorem setpixelReplacesTheColumnOfItsPixel : Obligations.SetpixelReplacesTheColumnOfItsPixel := by
  intro s f x y p hlive hconfig hstores hwhole hx hy
  obtain ⟨f', hexec, hother, hlength, hcolumn, hkept⟩ :=
    exec_setpixel_of_inside ⟨hlive, hconfig, hstores, hwhole⟩ p hx hy
  refine ⟨f', hexec, hother, hlength, fun j hj hhalf => ?_, fun j hj hhalf => ?_, fun i hi => hkept i fun j hj => ?_⟩
  · simpa [pixelRow, hhalf, mergedWord] using hcolumn j hj
  · simpa [pixelRow, Nat.not_lt.2 hhalf, mergedWord] using hcolumn j hj
  · exact pixelRow_snd s.cfg y ▸ hi j hj

/-- Settles O19: the LIVE test first, then the range test, which answers the state as it is. -/
theorem setpixelOutsideThePanelIsIgnored : Obligations.SetpixelOutsideThePanelIsIgnored := by
  intro s x y p hout
  have hout : outOfRange s.cfg x y = true := by simpa [outOfRange] using hout
  constructor
  · intro hlive
    change execSetpixel x y p s = .next s
    rw [execSetpixel, whenLive_of_live _ hlive, if_pos hout]
  · intro hlive
    exact whenLive_of_not_live _ hlive

end Sys2Proof.Machine

/-! SUPPORT. The colour a buffer holds (R320) is a matter of its words' colour bits on the pixel's half. -/

namespace Sys2Proof.Machine

/-- One channel of the colour that eight words carry, one a bitplane, on the signal at position `p` (R320). -/
def wordsChannel (g : Nat → Word) (p : Nat) : Nat :=
  ((List.range depth).map fun j => if g j &&& signalBit p ≠ 0 then 2 ^ j else 0).sum

/-- The colour that eight words carry on a half's signals (R320). -/
def wordsColour (l : Layout) (half : Half) (g : Nat → Word) : Nat × Nat × Nat :=
  (wordsChannel g (halfSignals l half).1, wordsChannel g (halfSignals l half).2.1,
    wordsChannel g (halfSignals l half).2.2)

/-- `decode` reads the colour of the pixel's column on the pixel's half (R320). -/
theorem decodeColour_eq (s : State) (b : BufIdx) (x y : Nat) :
    decodeColour s b x y =
      wordsColour s.cfg.layout (pixelRow s.cfg y).1 fun j => columnWord s b (pixelRow s.cfg y).2 j x := by
  unfold decodeColour
  cases pixelRow s.cfg y with
  | mk half r => cases half <;> rfl

theorem columnWord_of_fsRead {s : State} {f : FrameStore} {b : BufIdx} {r j x : Nat} {w : Word} (hf : s.fs = some f)
    (hw : fsRead f b (widx s.cfg r j (slot x)) = some w) : columnWord s b r j x = w := by
  simp [columnWord, hf, hw]

theorem wordsChannel_congr {g g' : Nat → Word} {m : Word} {p : Nat} (hp : m &&& signalBit p = signalBit p)
    (h : ∀ j < depth, g j &&& m = g' j &&& m) : wordsChannel g p = wordsChannel g' p := by
  have hbit : ∀ j < depth, g j &&& signalBit p = g' j &&& signalBit p := fun j hj => by
    rw [← hp, ← BitVec.and_assoc, ← BitVec.and_assoc, h j hj]
  refine congrArg List.sum (List.map_congr_left fun j hj => ?_)
  rw [hbit j (List.mem_range.1 hj)]

/-- A half's mask covers its three signals (R104). -/
theorem halfMask_and_signalBit (l : Layout) (half : Half) :
    halfMask l half &&& signalBit (halfSignals l half).1 = signalBit (halfSignals l half).1 ∧
    halfMask l half &&& signalBit (halfSignals l half).2.1 = signalBit (halfSignals l half).2.1 ∧
    halfMask l half &&& signalBit (halfSignals l half).2.2 = signalBit (halfSignals l half).2.2 := by
  rw [halfMask_eq]
  refine ⟨?_, ?_, ?_⟩ <;> ext i <;> simp only [BitVec.getElem_and, BitVec.getElem_or] <;> grind

/-- Words that agree under a half's mask carry one colour on that half. -/
theorem wordsColour_congr {l : Layout} {half : Half} {g g' : Nat → Word}
    (h : ∀ j < depth, g j &&& halfMask l half = g' j &&& halfMask l half) :
    wordsColour l half g = wordsColour l half g' := by
  obtain ⟨hr, hg, hb⟩ := halfMask_and_signalBit l half
  rw [wordsColour, wordsChannel_congr hr h, wordsChannel_congr hg h, wordsChannel_congr hb h, wordsColour]

theorem wordsChannel_eq_toNat {g : Nat → Word} {p : Nat} {v : Byte} (hp : p < 16)
    (h : ∀ j < depth, (g j).getLsbD p = v.getLsbD j) : wordsChannel g p = v.toNat := by
  rw [← byte_eq_sum v]
  refine congrArg List.sum (List.map_congr_left fun j hj => ?_)
  simp only [and_signalBit_ne_zero hp, h j (List.mem_range.1 hj)]

/-- With a lawful layout the colour bits of a colour carry that colour (R104, R320). -/
theorem wordsColour_halfRgb {l : Layout} (h : layoutLawful l = true) (half : Half) (p : Rgb) :
    wordsColour l half (halfRgb l half p) = (p.r.toNat, p.g.toNat, p.b.toNat) := by
  obtain ⟨⟨hr, hg, hb⟩, hnd⟩ := halfSignals_lawful h half
  simp only [List.nodup_cons, List.mem_cons, List.not_mem_nil, or_false, not_or] at hnd
  obtain ⟨⟨hrg, hrb⟩, hgb, -⟩ := hnd
  refine Prod.ext (wordsChannel_eq_toNat hr fun j _ => ?_) (Prod.ext (wordsChannel_eq_toNat hg fun j _ => ?_)
    (wordsChannel_eq_toNat hb fun j _ => ?_)) <;>
    simp only [halfRgb_eq, BitVec.getLsbD_or, getLsbD_signalWhen]
  · simp [hr, Ne.symm hrg, Ne.symm hrb]
  · simp [hg, hrg, Ne.symm hgb]
  · simp [hb, hrb, hgb]

/-- A half's colour bits lie under its mask (R104). -/
theorem halfRgb_and_halfMask {c : Config} (h : layoutLawful c.layout = true) (half : Half) (p : Rgb) (j : Nat) :
    halfRgb c.layout half p j &&& halfMask c.layout half = halfRgb c.layout half p j := by
  obtain ⟨-, -, hone, -, -, htwo, -⟩ := colour_masks h 0 0 0 j 0 p 0
  cases half
  · exact hone
  · exact htwo

section
variable {s : State} {f f' : FrameStore} {x y : Nat} {p : Rgb} (h : EncoderReady s f) (hr : ColumnReplaced s x y p f f')
include h hr

/-- The pixel written shows the corrected colour (R152). -/
theorem decodeColour_withTarget_same :
    decodeColour (withTarget f' s) s.widx x y =
      ((corrP s.cfg p.r).toNat, (corrP s.cfg p.g).toNat, (corrP s.cfg p.b).toNat) := by
  have hlayout := (configOK_iff.1 h.config).layout
  calc decodeColour (withTarget f' s) s.widx x y
    _ = wordsColour s.cfg.layout (pixelRow s.cfg y).1
          fun j => columnWord (withTarget f' s) s.widx (pixelRow s.cfg y).2 j x := decodeColour_eq ..
    _ = wordsColour s.cfg.layout (pixelRow s.cfg y).1
          (halfRgb s.cfg.layout (pixelRow s.cfg y).1 (corrRgb s.cfg p)) := wordsColour_congr fun j hj => by
        obtain ⟨old, -, hnew⟩ := hr.column j hj
        rw [columnWord_of_fsRead (withTarget_fs f' s) hnew, mergedWord_and_halfMask hlayout,
          halfRgb_and_halfMask hlayout]
    _ = ((corrP s.cfg p.r).toNat, (corrP s.cfg p.g).toNat, (corrP s.cfg p.b).toNat) :=
        wordsColour_halfRgb hlayout _ (corrRgb s.cfg p)

/-- The pixel of the other half keeps its colour (R152). -/
theorem decodeColour_withTarget_other {y' : Nat}
    (hy' : pixelRow s.cfg y' = ((pixelRow s.cfg y).1.other, (pixelRow s.cfg y).2)) :
    decodeColour (withTarget f' s) s.widx x y' = decodeColour s s.widx x y' := by
  rw [decodeColour_eq, decodeColour_eq, withTarget_cfg, hy']
  refine wordsColour_congr fun j hj => ?_
  obtain ⟨old, hold, hnew⟩ := hr.column j hj
  rw [columnWord_of_fsRead (withTarget_fs f' s) hnew, columnWord_of_fsRead h.stores hold]
  exact mergedWord_and_halfMask_other (configOK_iff.1 h.config).layout ..

end

theorem corrP_of_none {c : Config} (h : c.corrMode = .none) (v : Byte) : corrP c v = v := by simp [corrP, h]

theorem corrP_of_ne_none {c : Config} (h : c.corrMode ≠ .none) (v : Byte) : corrP c v = gammaLookup c v := by
  unfold corrP
  split
  · exact absurd ‹_› h
  · rfl
  · rfl

/-- Settles O20: the stored words carry the corrected colour on the pixel's half and the old colour on the other. -/
theorem setpixelThenDecodeGivesTheColour : Obligations.SetpixelThenDecodeGivesTheColour := by
  intro s s' f x y p hlive hconfig hstores hwhole hx hy h
  have henc : EncoderReady s f := ⟨hlive, hconfig, hstores, hwhole⟩
  obtain ⟨f', hexec, hreplaced⟩ := exec_setpixel_of_inside henc p hx hy
  obtain rfl : s' = withTarget f' s := by
    rw [hexec] at h
    cases h
    rfl
  have hcolour := decodeColour_withTarget_same henc hreplaced
  refine ⟨fun hmode => ?_, fun hmode => ?_, decodeColour_withTarget_other henc hreplaced (pixelRow_other hconfig hy)⟩
  · simpa only [corrP_of_none hmode] using hcolour
  · simpa only [corrP_of_ne_none hmode] using hcolour

end Sys2Proof.Machine

/-! SUPPORT. Writing the whole write target (R153, R156): what FILL and ENCODEFRAME answer of a live block. -/

namespace Sys2Proof.Machine

theorem renderTarget_eq_withTarget (pixel : Nat → Nat → Rgb) {s : State} {f : FrameStore} (hf : s.fs = some f) :
    renderTarget pixel s =
      .next (withTarget (setBuffer f s.widx (renderBuffer s.cfg s.t.toNat s.duty.toNat pixel)) s) :=
  renderTarget_of_some hf

theorem exec_fill_of_live (p : Rgb) {s : State} (h : s.live = true) :
    exec (.fill p) s = renderTarget (fun _ _ => p) s := whenLive_of_live _ h

theorem exec_encodeframe_of_live {s : State} (h : s.live = true) (hframe : frameOK s = true) :
    exec .encodeframe s = renderTarget (callerPixel s) s :=
  (whenLive_of_live _ h).trans (whenFrameOK_of_ok _ hframe)

/-- Every word of the write target is composed from its two pixels; nothing else changes but the tear record. -/
theorem renderTarget_writes_every_word (pixel : Nat → Nat → Rgb) {s : State} {f : FrameStore}
    (hc : configOK s.cfg = true) (hf : s.fs = some f) :
    ∃ f', renderTarget pixel s = .next (withTarget f' s) ∧
      bufferOf f' (s.widx + 1) = bufferOf f (s.widx + 1) ∧
      (bufferOf f' s.widx).length = bufferWords s.cfg ∧
      ∀ r j x, r < rows s.cfg → j < depth → x < s.cfg.w →
        fsRead f' s.widx (widx s.cfg r j (slot x)) =
          some (pixelWord s.cfg s.t.toNat s.duty.toNat (pixel x r) (pixel x (r + rows s.cfg)) r j x) := by
  refine ⟨_, renderTarget_eq_withTarget pixel hf, bufferOf_setBuffer_next .., ?_, fun r j x hr hj hx => ?_⟩
  · rw [bufferOf_setBuffer_same, renderBuffer_length]
  · rw [fsRead, bufferOf_setBuffer_same]
    exact renderBuffer_widx _ _ _ hr hj (slot_lt (configOK_iff.1 hc).width_even hx)

/-- Settles O21: FILL renders the one colour everywhere. -/
theorem fillWritesEveryWordOfTheTarget : Obligations.FillWritesEveryWordOfTheTarget := by
  intro s f p hlive hconfig hstores
  rw [exec_fill_of_live p hlive]
  exact renderTarget_writes_every_word (fun _ _ => p) hconfig hstores

/-- Settles O23: ENCODEFRAME renders the caller's frame, whose bytes are where R77 says. -/
theorem encodeframeWritesTheCallersFrame : Obligations.EncodeframeWritesTheCallersFrame := by
  intro s f hlive hconfig hstores hframe
  rw [exec_encodeframe_of_live hlive (frameOK_iff.2 hframe)]
  exact renderTarget_writes_every_word (callerPixel s) hconfig hstores

end Sys2Proof.Machine

/-! SUPPORT. SETPIXEL at every pixel of the panel renders the write target (R154, R157): each store of one pixel keeps
every other pixel that is already shown, and a buffer that shows every pixel is determined. -/

namespace Sys2Proof.Machine

/-- Storing one half and then the other leaves no trace of the old word (R150). -/
theorem mergedWord_mergedWord_other {c : Config} (h : layoutLawful c.layout = true) (t duty : Nat) (half : Half)
    (p q : Rgb) (r j x : Nat) (old : Word) :
    mergedWord c t duty half.other q r j x (mergedWord c t duty half p r j x old) =
      baseWord c t duty r j x ||| halfRgb c.layout half.other (corrRgb c q) j |||
        halfRgb c.layout half (corrRgb c p) j := by
  rw [mergedWord_eq c t duty half.other, Half.other_other, mergedWord_and_halfMask h]

/-- The two halves of a word may be stored in either order (R150). -/
theorem mergedWord_comm {c : Config} (h : layoutLawful c.layout = true) (t duty : Nat) (half : Half) (p q : Rgb)
    (r j x : Nat) (old : Word) :
    mergedWord c t duty half.other q r j x (mergedWord c t duty half p r j x old) =
      mergedWord c t duty half p r j x (mergedWord c t duty half.other q r j x old) := by
  have hswapped := mergedWord_mergedWord_other h t duty half.other q p r j x old
  rw [Half.other_other] at hswapped
  rw [mergedWord_mergedWord_other h, hswapped, BitVec.or_assoc, BitVec.or_assoc, BitVec.or_comm (halfRgb ..)]

/-- A word that both its pixels have been merged into is the rendered word (R150, R153). -/
theorem eq_pixelWord_of_merged {c : Config} (h : layoutLawful c.layout = true) {t duty r j x : Nat} {top bot : Rgb}
    {old old' : Word} (heq : mergedWord c t duty .one top r j x old = mergedWord c t duty .two bot r j x old') :
    mergedWord c t duty .one top r j x old = pixelWord c t duty top bot r j x := by
  have hlower : old &&& c2Mask c.layout = rgb2 c.layout (corrRgb c bot) j := by
    calc old &&& c2Mask c.layout
      _ = mergedWord c t duty .one top r j x old &&& c2Mask c.layout :=
        (mergedWord_and_halfMask_other h t duty .one top r j x old).symm
      _ = mergedWord c t duty .two bot r j x old' &&& c2Mask c.layout := by rw [heq]
      _ = rgb2 c.layout (corrRgb c bot) j := mergedWord_and_halfMask h t duty .two bot r j x old'
  rw [mergedWord, hlower, pixelWord]

/-- The column of pixel `(x, y)` in the write target has the pixel's colour merged into it, one word a bitplane. -/
def Shows (s : State) (pixel : Nat → Nat → Rgb) (f : FrameStore) (x y : Nat) : Prop :=
  ∀ j < depth, ∃ old, fsRead f s.widx (widx s.cfg (pixelRow s.cfg y).2 j (slot x)) =
    some (mergedWord s.cfg s.t.toNat s.duty.toNat (pixelRow s.cfg y).1 (pixel x y) (pixelRow s.cfg y).2 j x old)

theorem ColumnReplaced.shows {s : State} {pixel : Nat → Nat → Rgb} {x y : Nat} {f f' : FrameStore}
    (h : ColumnReplaced s x y (pixel x y) f f') : Shows s pixel f' x y := fun j hj => by
  obtain ⟨old, -, hnew⟩ := h.column j hj
  exact ⟨old, hnew⟩

/-- SETPIXEL keeps a pixel shown: it stores that pixel again, or merges into the other half of its words, or leaves
them alone. -/
theorem ColumnReplaced.shows_kept {s : State} {pixel : Nat → Nat → Rgb} {x y u v : Nat} {f f' : FrameStore}
    (h : ColumnReplaced s x y (pixel x y) f f') (hc : configOK s.cfg = true) (hx : x < s.cfg.w) (hu : u < s.cfg.w)
    (hshown : Shows s pixel f u v) : Shows s pixel f' u v := by
  have hslot {z : Nat} (hz : z < s.cfg.w) : slot z < s.cfg.w := slot_lt (configOK_iff.1 hc).width_even hz
  by_cases hsame : u = x ∧ (pixelRow s.cfg v).2 = (pixelRow s.cfg y).2
  · obtain ⟨rfl, hrow⟩ := hsame
    by_cases hhalf : (pixelRow s.cfg v).1 = (pixelRow s.cfg y).1
    · obtain rfl := pixelRow_inj hhalf hrow
      exact h.shows
    · intro j hj
      obtain ⟨old, hold⟩ := hshown j hj
      obtain ⟨old', hold', hnew⟩ := h.column j hj
      rw [hrow] at hold ⊢
      rw [hold, Option.some.injEq] at hold'
      rw [hnew, ← hold', Half.eq_other_of_ne (Ne.symm hhalf), mergedWord_comm (configOK_iff.1 hc).layout]
      exact ⟨_, rfl⟩
  · intro j hj
    rw [h.kept]
    · exact hshown j hj
    · intro k hk heq
      obtain ⟨hrow, -, hcolumn⟩ := widx_inj hj (hslot hu) hk (hslot hx) heq
      exact hsame ⟨slot_inj hcolumn, hrow⟩

theorem EncoderReady.withTarget {s : State} {f f' : FrameStore} (h : EncoderReady s f)
    (hlength : (bufferOf f' s.widx).length = (bufferOf f s.widx).length) : EncoderReady (withTarget f' s) f' :=
  ⟨h.live, h.config, rfl, hlength.trans h.whole⟩

/-- From `f` to `f'` the listed pixels have been stored into the write target, and no pixel has been lost. -/
structure PixelsStored (s : State) (pixel : Nat → Nat → Rgb) (ps : List (Nat × Nat)) (f f' : FrameStore) : Prop where
  other : bufferOf f' (s.widx + 1) = bufferOf f (s.widx + 1)
  length : (bufferOf f' s.widx).length = (bufferOf f s.widx).length
  shown : ∀ x y, (x, y) ∈ ps → Shows s pixel f' x y
  kept : ∀ x y, x < s.cfg.w → Shows s pixel f x y → Shows s pixel f' x y

/-- What has been stored reads of the state only what a new write target leaves alone. -/
theorem PixelsStored.of_withTarget {s : State} {pixel : Nat → Nat → Rgb} {ps : List (Nat × Nat)}
    {f₀ f f' : FrameStore} (h : PixelsStored (withTarget f₀ s) pixel ps f f') : PixelsStored s pixel ps f f' :=
  ⟨h.other, h.length, h.shown, h.kept⟩

theorem exec_setpixel_stores {s : State} {f : FrameStore} (h : EncoderReady s f) (pixel : Nat → Nat → Rgb) {x y : Nat}
    (hx : x < s.cfg.w) (hy : y < s.cfg.h) :
    ∃ f', exec (.setpixel x y (pixel x y)) s = .next (withTarget f' s) ∧ PixelsStored s pixel [(x, y)] f f' := by
  obtain ⟨f', hexec, hreplaced⟩ := exec_setpixel_of_inside h (pixel x y) hx hy
  refine ⟨f', hexec, hreplaced.other, hreplaced.length, fun u v hmem => ?_,
    fun u v hu => hreplaced.shows_kept h.config hx hu⟩
  obtain ⟨rfl, rfl⟩ := Prod.mk.inj (List.mem_singleton.1 hmem)
  exact hreplaced.shows

theorem PixelsStored.append {s : State} {pixel : Nat → Nat → Rgb} {ps qs : List (Nat × Nat)}
    {f f₁ f' : FrameStore} (h : PixelsStored s pixel ps f f₁) (h' : PixelsStored s pixel qs f₁ f')
    (hps : ∀ x y, (x, y) ∈ ps → x < s.cfg.w) :
    PixelsStored s pixel (ps ++ qs) f f' where
  other := h'.other.trans h.other
  length := h'.length.trans h.length
  shown x y hmem := by
    rcases List.mem_append.1 hmem with hmem | hmem
    · exact h'.kept x y (hps x y hmem) (h.shown x y hmem)
    · exact h'.shown x y hmem
  kept x y hx hbefore := h'.kept x y hx (h.kept x y hx hbefore)

/-- SETPIXEL of one or more listed pixels of the panel stores them, and makes the tear record once. -/
theorem setPixels_cons_stores {s : State} {f : FrameStore} (h : EncoderReady s f) (pixel : Nat → Nat → Rgb) (x y : Nat)
    (ps : List (Nat × Nat)) (hps : ∀ u v, (u, v) ∈ (x, y) :: ps → u < s.cfg.w ∧ v < s.cfg.h) :
    ∃ f', setPixels pixel ((x, y) :: ps) s = .next (withTarget f' s) ∧ PixelsStored s pixel ((x, y) :: ps) f f' := by
  induction ps generalizing x y s f with
  | nil =>
    obtain ⟨hx, hy⟩ := hps x y List.mem_cons_self
    obtain ⟨f₁, hexec, hstored⟩ := exec_setpixel_stores h pixel hx hy
    exact ⟨f₁, by rw [setPixels, hexec]; rfl, hstored⟩
  | cons q ps ih =>
    obtain ⟨hx, hy⟩ := hps x y List.mem_cons_self
    obtain ⟨f₁, hexec, hstored⟩ := exec_setpixel_stores h pixel hx hy
    obtain ⟨f', hrest, hstored'⟩ := ih (h.withTarget hstored.length) q.1 q.2 fun u v hmem =>
      hps u v (List.mem_cons_of_mem _ hmem)
    rw [withTarget_withTarget] at hrest
    refine ⟨f', by rw [setPixels, hexec]; exact hrest, hstored.append hstored'.of_withTarget fun u v hmem => ?_⟩
    exact (hps u v (List.mem_append_left (q :: ps) hmem)).1

/-- A whole write target that shows every pixel of the panel is the rendered one. -/
theorem eq_renderBuffer_of_shows {s : State} {pixel : Nat → Nat → Rgb} {f : FrameStore} (hc : configOK s.cfg = true)
    (hwhole : (bufferOf f s.widx).length = bufferWords s.cfg)
    (hshown : ∀ x y, x < s.cfg.w → y < s.cfg.h → Shows s pixel f x y) :
    bufferOf f s.widx = renderBuffer s.cfg s.t.toNat s.duty.toNat pixel := by
  have hconfig := configOK_iff.1 hc
  refine List.ext_getElem? fun i => ?_
  by_cases hi : i < bufferWords s.cfg
  · obtain ⟨r, j, k, hr, hj, hk, rfl⟩ := widx_surj hi
    obtain ⟨x, hx, rfl⟩ : ∃ x < s.cfg.w, slot x = k := ⟨slot k, slot_lt hconfig.width_even hk, slot_slot k⟩
    have hheight := hconfig.height
    obtain ⟨old, htop⟩ := hshown x r hx (by omega) j hj
    obtain ⟨old', hbot⟩ := hshown x (r + rows s.cfg) hx (by omega) j hj
    simp only [pixelRow, hr, if_true] at htop
    simp only [pixelRow, Nat.not_lt.2 (Nat.le_add_left ..), if_false, Nat.add_sub_cancel] at hbot
    rw [renderBuffer_widx _ _ _ hr hj hk, ← fsRead, htop]
    rw [htop, Option.some.injEq] at hbot
    rw [eq_pixelWord_of_merged hconfig.layout hbot]
  · rw [List.getElem?_eq_none (by omega), List.getElem?_eq_none (by rw [renderBuffer_length]; omega)]

/-- SETPIXEL at every pixel of the panel, in any order and from any contents, renders the write target. -/
theorem setPixels_eq_renderTarget {s : State} {f : FrameStore} (h : EncoderReady s f) (pixel : Nat → Nat → Rgb)
    {ps : List (Nat × Nat)} (hps : coversPanel s.cfg ps) : setPixels pixel ps s = renderTarget pixel s := by
  have hconfig := configOK_iff.1 h.config
  cases ps with
  | nil =>
    have hheight := hconfig.height
    have hrows := hconfig.one_le_rows
    have hwidth := hconfig.two_le_width
    exact absurd ((hps 0 0).2 ⟨by omega, by omega⟩) List.not_mem_nil
  | cons q ps =>
    obtain ⟨f', hexec, hstored⟩ := setPixels_cons_stores h pixel q.1 q.2 ps fun u v => (hps u v).1
    have hrendered : f' = setBuffer f s.widx (renderBuffer s.cfg s.t.toNat s.duty.toNat pixel) := by
      refine frameStore_ext s.widx ?_ ?_
      · rw [bufferOf_setBuffer_same]
        exact eq_renderBuffer_of_shows h.config (hstored.length.trans h.whole) fun x y hx hy =>
          hstored.shown x y ((hps x y).2 ⟨hx, hy⟩)
      · rw [bufferOf_setBuffer_next, hstored.other]
    rw [renderTarget_eq_withTarget pixel h.stores, ← hrendered]
    exact hexec

/-- Settles O22: both sides render the one colour everywhere. -/
theorem fillEqualsSetpixelEverywhere : Obligations.FillEqualsSetpixelEverywhere := by
  intro s f p ps hlive hconfig hstores hwhole hps
  refine ⟨_, (exec_fill_of_live p hlive).trans (renderTarget_eq_withTarget _ hstores), ?_⟩
  rw [setPixels_eq_renderTarget ⟨hlive, hconfig, hstores, hwhole⟩ _ hps, renderTarget_eq_withTarget _ hstores]

/-- Settles O24: SETPIXEL at every pixel renders the caller's frame, whatever the write target held, so black too. -/
theorem encodeframeEqualsSetpixelsOverBlack : Obligations.EncodeframeEqualsSetpixelsOverBlack := by
  intro s f ps hlive hconfig hstores hwhole hframe hps
  refine ⟨_, _, (exec_encodeframe_of_live hlive hframe).trans (renderTarget_eq_withTarget _ hstores),
    (exec_fill_of_live _ hlive).trans (renderTarget_eq_withTarget _ hstores), ?_⟩
  have hblack : EncoderReady (withTarget (setBuffer f s.widx
      (renderBuffer s.cfg s.t.toNat s.duty.toNat fun _ _ => ⟨0, 0, 0⟩)) s) _ :=
    EncoderReady.withTarget ⟨hlive, hconfig, hstores, hwhole⟩
      (by rw [bufferOf_setBuffer_same, renderBuffer_length, hwhole])
  rw [setPixels_eq_renderTarget hblack _ hps, renderTarget_eq_withTarget _ hblack.stores, withTarget_withTarget]
  simp only [withTarget_cfg, withTarget_t, withTarget_duty, withTarget_widx, setBuffer_setBuffer]
  rfl

end Sys2Proof.Machine

/-! SUPPORT. What the encoder commands leave alone (R155), in every state they answer in. -/

namespace Sys2Proof.Machine

/-- From `s` to `s'` at most the write target, HAZARD and FAULT have changed (R155). -/
def ChangesTargetOnly (s s' : State) : Prop :=
  s' = { s with fs := s'.fs, hazard := s'.hazard, fault := s'.fault } ∧
    s'.fs.map (bufferOf · (s.widx + 1)) = s.fs.map (bufferOf · (s.widx + 1))

theorem changesTargetOnly_raiseFault (b : FaultBit) (s : State) : ChangesTargetOnly s (raiseFault b s) := ⟨rfl, rfl⟩

theorem changesTargetOnly_withTarget {s : State} {f f' : FrameStore} (hf : s.fs = some f)
    (hother : bufferOf f' (s.widx + 1) = bufferOf f (s.widx + 1)) : ChangesTargetOnly s (withTarget f' s) :=
  ⟨rfl, by rw [withTarget_fs, hf, Option.map_some, Option.map_some, hother]⟩

/-- SETPIXEL's loop writes the write target only, whatever words it names (R150). -/
theorem mergePlanes_keeps_other {s : State} {half : Half} {p : Rgb} {r x : Nat} {js : List Nat} {f f' : FrameStore}
    (h : mergePlanes s half p r x js f = some f') : bufferOf f' (s.widx + 1) = bufferOf f (s.widx + 1) := by
  induction js generalizing f with
  | nil =>
    cases h
    rfl
  | cons j js ih =>
    rw [mergePlanes] at h
    split at h
    · cases h
    · exact (ih h).trans (bufferOf_fsWrite_next ..)

theorem renderTarget_changesTargetOnly {pixel : Nat → Nat → Rgb} {s s' : State} (h : renderTarget pixel s = .next s') :
    ChangesTargetOnly s s' ∧ s'.fault = s.fault := by
  obtain ⟨f, hf, rfl⟩ := renderTarget_eq_next h
  exact ⟨changesTargetOnly_withTarget hf (bufferOf_setBuffer_next ..), rfl⟩

theorem execSetpixel_changesTargetOnly {x y : Nat} {p : Rgb} {s s' : State} (h : execSetpixel x y p s = .next s') :
    ChangesTargetOnly s s' ∧ (s.live = true → s'.fault = s.fault) := by
  rcases execSetpixel_eq_next h with ⟨hdead, rfl⟩ | ⟨-, -, rfl⟩ | ⟨-, -, f, f', hf, hmerge, rfl⟩
  · exact ⟨changesTargetOnly_raiseFault .notInit s, by simp [hdead]⟩
  · exact ⟨⟨rfl, rfl⟩, fun _ => rfl⟩
  · exact ⟨changesTargetOnly_withTarget hf (mergePlanes_keeps_other hmerge), fun _ => rfl⟩

theorem execFill_changesTargetOnly {p : Rgb} {s s' : State} (h : execFill p s = .next s') :
    ChangesTargetOnly s s' ∧ (s.live = true → s'.fault = s.fault) := by
  rcases whenLive_eq_next h with ⟨-, hbody⟩ | ⟨hdead, rfl⟩
  · obtain ⟨htarget, hfault⟩ := renderTarget_changesTargetOnly hbody
    exact ⟨htarget, fun _ => hfault⟩
  · exact ⟨changesTargetOnly_raiseFault .notInit s, by simp [hdead]⟩

theorem execEncodeframe_changesTargetOnly {s s' : State} (h : execEncodeframe s = .next s') :
    ChangesTargetOnly s s' ∧ (s.live = true → frameOK s = true → s'.fault = s.fault) := by
  rcases whenLive_eq_next h with ⟨-, hbody⟩ | ⟨hdead, rfl⟩
  · rcases whenFrameOK_eq_next hbody with ⟨-, hbody⟩ | ⟨hbad, rfl⟩
    · obtain ⟨htarget, hfault⟩ := renderTarget_changesTargetOnly hbody
      exact ⟨htarget, fun _ _ => hfault⟩
    · exact ⟨changesTargetOnly_raiseFault .badAddr s, by simp [hbad]⟩
  · exact ⟨changesTargetOnly_raiseFault .notInit s, by simp [hdead]⟩

/-- Settles O25: command by command, each answers a raised fault, the state as it is, or a new write target. -/
theorem encodersWriteOnlyTheTarget : Obligations.EncodersWriteOnlyTheTarget := by
  rintro i s s' (⟨x, y, p, rfl⟩ | ⟨p, rfl⟩ | rfl) h
  · obtain ⟨⟨hframe, hother⟩, hfault⟩ := execSetpixel_changesTargetOnly h
    exact ⟨hframe, hother, fun hlive _ => hfault hlive⟩
  · obtain ⟨⟨hframe, hother⟩, hfault⟩ := execFill_changesTargetOnly h
    exact ⟨hframe, hother, fun hlive _ => hfault hlive⟩
  · obtain ⟨⟨hframe, hother⟩, hfault⟩ := execEncodeframe_changesTargetOnly h
    exact ⟨hframe, hother, fun hlive hok => hfault hlive (hok rfl)⟩

end Sys2Proof.Machine

/-! SUPPORT. Acceptance of a transition bit (R185), the search for the smallest accepted one (R186), and how the costs
fall as the transition bit grows (R187). -/

namespace Sys2Proof.Machine

theorem accept_iff {c : Config} {d : InitDraw} {t : Nat} :
    accept c d t = true ↔
      ramRequired c t ≤ d.largestFree ∧ (ramRequired c t : Int) ≤ (d.totalFree : Int) - c.reservedBytes ∧
        c.minRefreshHz ≤ (refreshRate c t : Int) := by
  simp only [accept, Bool.and_eq_true, decide_eq_true_eq, and_assoc]

theorem planTransitionBit_eq_some_iff {c : Config} {d : InitDraw} {t : Nat} :
    planTransitionBit c d = some t ↔ t < 8 ∧ accept c d t = true ∧ ∀ t' < t, accept c d t' = false := by
  simp only [planTransitionBit, depth_eq, List.find?_range_eq_some, List.mem_range, Bool.not_eq_true', and_left_comm]

theorem planTransitionBit_eq_none_iff {c : Config} {d : InitDraw} :
    planTransitionBit c d = none ↔ ∀ t < 8, accept c d t = false := by
  simp only [planTransitionBit, depth_eq, List.find?_range_eq_none, Bool.not_eq_true']

/-- Settles O40: the three tests of R185, and the search's two outcomes. -/
theorem planTakesTheSmallestAcceptedBit : Obligations.PlanTakesTheSmallestAcceptedBit := fun _ _ =>
  ⟨fun _ => accept_iff, fun _ => planTransitionBit_eq_some_iff, planTransitionBit_eq_none_iff⟩

/-- The row time in latch times falls from one transition bit to the next: the power halves, and is at least 4 before
it does. -/
theorem latchTimes_succ_lt {t : Nat} (ht : t + 1 < 8) : 2 ^ (8 - (t + 1)) + (t + 1) < 2 ^ (8 - t) + t := by
  have hhalf : 2 ^ (8 - t) = 2 * 2 ^ (8 - (t + 1)) := by rw [← pow_succ', show 8 - (t + 1) + 1 = 8 - t by omega]
  have htwo : 2 ^ 1 ≤ 2 ^ (8 - (t + 1)) := Nat.pow_le_pow_right (by decide) (by omega)
  omega

/-- The row time in latch times strictly decreases with the transition bit (R183, R187). -/
theorem latchTimes_lt {t t' : Nat} (htt : t < t') (ht' : t' < 8) : 2 ^ (8 - t') + t' < 2 ^ (8 - t) + t := by
  induction t', htt using Nat.le_induction with
  | base => exact latchTimes_succ_lt ht'
  | succ u _ ih => exact (latchTimes_succ_lt ht').trans (ih (by omega))

section
variable {c : Config} (hc : ConfigAccepted c)
include hc

theorem nsPerRow_pos (t : Nat) : 0 < nsPerRow c t :=
  Nat.add_pos_left (Nat.mul_pos (by decide) hc.one_le_latchNs) _

theorem ramRequired_lt {t t' : Nat} (htt : t < t') (ht' : t' < 8) : ramRequired c t' < ramRequired c t := by
  have hpow : 2 ^ (7 - t') < 2 ^ (7 - t) := Nat.pow_lt_pow_right (by decide) (by omega)
  have hrows := hc.one_le_rows
  have hsize := hc.one_le_descSize
  rw [ramRequired_eq, ramRequired_eq]
  gcongr

theorem nsPerRow_lt {t t' : Nat} (htt : t < t') (ht' : t' < 8) : nsPerRow c t' < nsPerRow c t := by
  rw [nsPerRow_eq c ht', nsPerRow_eq c (htt.trans ht')]
  have htimes := latchTimes_lt htt ht'
  have hpos := Nat.two_pow_pos (8 - t')
  exact Nat.mul_lt_mul_of_pos_left (by omega) hc.one_le_latchNs

theorem refreshRate_le {t t' : Nat} (htt : t < t') (ht' : t' < 8) : refreshRate c t ≤ refreshRate c t' :=
  Nat.div_le_div_left (Nat.mul_le_mul_right _ (nsPerRow_lt hc htt ht').le)
    (Nat.mul_pos (nsPerRow_pos hc t') hc.one_le_rows)

/-- A larger transition bit passes each of the three tests that a smaller one passes (R187). -/
theorem accept_of_lt {d : InitDraw} {t t' : Nat} (htt : t < t') (ht' : t' < 8) (h : accept c d t = true) :
    accept c d t' = true := by
  obtain ⟨hblock, htotal, hrate⟩ := accept_iff.1 h
  have hram := ramRequired_lt hc htt ht'
  have hrefresh := refreshRate_le hc htt ht'
  exact accept_iff.2 ⟨by omega, by omega, by omega⟩

end

/-- Settles O41: the closed forms of the costs decrease, and acceptance follows them. -/
theorem acceptanceIsUpwardClosed : Obligations.AcceptanceIsUpwardClosed := by
  intro c t t' hconfig htt ht'
  have hc := configOK_iff.1 hconfig
  exact ⟨ramRequired_lt hc htt ht', nsPerRow_lt hc htt ht', refreshRate_le hc htt ht', fun _ => accept_of_lt hc htt ht'⟩

end Sys2Proof.Machine

/-! SUPPORT. The chains row by row (R190, R191): DPR(T) descriptors to a row, and the end mark on the last of all. -/

namespace Sys2Proof.Machine

@[simp] theorem rowDescriptors_length (c : Config) (t : Nat) (b : BufIdx) (r : Nat) :
    (rowDescriptors c t b r).length = descriptorsPerRow t := by
  have hsum := sum_range_two_pow (7 - t)
  rw [rowDescriptors, List.length_cons, List.length_flatMap, descriptorsPerRow_eq, depth_eq]
  simpa only [List.length_replicate] using hsum

/-- Each descriptor of a row is of its chain's buffer, starts in that row and is not marked (R190). -/
theorem rowDescriptors_shape {c : Config} {t r : Nat} {b : BufIdx} {d : Descriptor} (hw : 0 < c.w) (ht : t < 8)
    (h : d ∈ rowDescriptors c t b r) : d.buf = b ∧ d.off / (8 * c.w) = r ∧ d.eof = false := by
  obtain ⟨first, planes, rfl, hplanes, hspan⟩ := mem_rowDescriptors h
  have hfirst : first < depth := by
    rw [depth_eq] at hspan ⊢
    omega
  exact ⟨rfl, (widx_parts hfirst hw).1, rfl⟩

@[simp] theorem buildChain_length (c : Config) (t : Nat) (b : BufIdx) :
    (buildChain c t b).length = rows c * descriptorsPerRow t := by
  simp [buildChain, List.length_flatMap]

/-- Descriptor `k` of a chain is the one of row `k / DPR(T)` at position `k % DPR(T)`, marked if it is the last
(R191). -/
theorem buildChain_getElem? {c : Config} {t k : Nat} {b : BufIdx} (hk : k < rows c * descriptorsPerRow t) :
    (buildChain c t b)[k]? =
      (rowDescriptors c t b (k / descriptorsPerRow t))[k % descriptorsPerRow t]?.map fun d =>
        if k + 1 = rows c * descriptorsPerRow t then { d with eof := true } else d := by
  rw [buildChain, markEnd_getElem?, ← markEnd_length, ← buildChain, buildChain_length,
    flatMap_range_getElem? _ _ _ (rowDescriptors_length c t b) k hk]

/-- What descriptor `k` of a chain is: its buffer, its row and its mark (R191). -/
theorem buildChain_shape {c : Config} {t k : Nat} {b : BufIdx} {d : Descriptor} (hw : 0 < c.w) (ht : t < 8)
    (h : (buildChain c t b)[k]? = some d) :
    d.buf = b ∧ d.off / (8 * c.w) = k / descriptorsPerRow t ∧
      (d.eof = true ↔ k + 1 = rows c * descriptorsPerRow t) := by
  have hk : k < rows c * descriptorsPerRow t := buildChain_length c t b ▸ (List.getElem?_eq_some_iff.1 h).1
  rw [buildChain_getElem? hk, Option.map_eq_some_iff] at h
  obtain ⟨d', hd', rfl⟩ := h
  obtain ⟨hbuf, hrow, heof⟩ := rowDescriptors_shape hw ht (List.mem_of_getElem? hd')
  split
  next hlast => exact ⟨hbuf, hrow, iff_of_true rfl hlast⟩
  next hinner => exact ⟨hbuf, hrow, iff_of_false (by simp [heof]) hinner⟩

/-- The descriptor with another buffer. -/
def Descriptor.inBuffer (b : BufIdx) (d : Descriptor) : Descriptor := { d with buf := b }

theorem map_inBuffer_rowDescriptors (c : Config) (t : Nat) (b b' : BufIdx) (r : Nat) :
    (rowDescriptors c t b r).map (Descriptor.inBuffer b') = rowDescriptors c t b' r := by
  simp only [rowDescriptors, List.map_cons, List.map_flatMap, List.map_replicate, planesDescriptor,
    Descriptor.inBuffer]

/-- The chain of one buffer is the chain of the other with `buf` changed (R191). -/
theorem map_inBuffer_buildChain (c : Config) (t : Nat) (b b' : BufIdx) :
    (buildChain c t b).map (Descriptor.inBuffer b') = buildChain c t b' := by
  rw [buildChain, ← markEnd_map _ fun _ => rfl, List.map_flatMap]
  simp only [map_inBuffer_rowDescriptors, buildChain]

/-- Settles O43: the chain's length, what descriptor `k` is, and the change of buffer. -/
theorem chainsHaveTheirShape : Obligations.ChainsHaveTheirShape := by
  intro c t hconfig ht
  have hw : 0 < c.w := Nat.lt_of_lt_of_le (by decide) (configOK_iff.1 hconfig).two_le_width
  exact ⟨buildChain_length c t, fun _ _ _ => buildChain_shape hw ht, (map_inBuffer_buildChain c t 0 1).symm⟩

end Sys2Proof.Machine

/-! SUPPORT. The duty of a legal percent (R262 to R265): at most the width, so that the register holds it whole. -/

namespace Sys2Proof.Machine

theorem lin_le (c : Config) {p : Nat} (hp : p ≤ 100) : lin c p ≤ c.w := by
  have hscaled := Nat.mul_le_mul_right c.w hp
  rw [lin]
  omega

theorem corrB_le (c : Config) (d : Nat) : corrB c d ≤ c.w := by
  have hbyte : (gammaLookup c (BitVec.ofNat 8 ((d * 255 + c.w / 2) / c.w))).toNat ≤ 255 :=
    Nat.le_of_lt_succ (BitVec.isLt _)
  have hscaled := Nat.mul_le_mul_right c.w hbyte
  rw [corrB]
  omega

/-- A legal percent's duty is at most the width, in every mode (R264). -/
theorem dutyOf_le {c : Config} (hw : 1 ≤ c.w) {p : Nat} (hp : p ≤ 100) : dutyOf c p ≤ c.w := by
  unfold dutyOf
  split
  · exact lin_le c hp
  · exact corrB_le c _
  · split
    · exact max_le hw (corrB_le c _)
    · exact Nat.zero_le _

theorem clampPercent_le (p : Int) : clampPercent p ≤ 100 := by
  rw [clampPercent]
  omega

/-- PERCENT and DUTY hold a legal percent and its duty whole (R38, R39). -/
theorem brightness_toNat {c : Config} (hc : configOK c = true) {p : Nat} (hp : p ≤ 100) :
    (BitVec.ofNat 7 p).toNat = p ∧ (BitVec.ofNat 16 (dutyOf c p)).toNat = dutyOf c p := by
  have hconfig := configOK_iff.1 hc
  have hlow := hconfig.two_le_width
  have hhigh := hconfig.width_le
  have hduty := dutyOf_le (c := c) (by omega) hp
  exact ⟨(BitVec.toNat_ofNat ..).trans (Nat.mod_eq_of_lt (by omega)),
    (BitVec.toNat_ofNat ..).trans (Nat.mod_eq_of_lt (by omega))⟩

end Sys2Proof.Machine

/-! SUPPORT. What the descriptors of a chain span (R190): the words they name exist, and the replay position has room to
move in its registers (R313). -/

namespace Sys2Proof.Machine

/-- A descriptor of a chain spans one or more bitplanes of one row. -/
theorem buildChain_span {c : Config} {t k : Nat} {b : BufIdx} {d : Descriptor} (ht : t < 8)
    (h : (buildChain c t b)[k]? = some d) :
    ∃ r first planes, r < rows c ∧ 1 ≤ planes ∧ first + planes ≤ depth ∧ d.off = widx c r first 0 ∧
      d.len / 2 = planes * c.w := by
  have hk : k < rows c * descriptorsPerRow t := buildChain_length c t b ▸ (List.getElem?_eq_some_iff.1 h).1
  rw [buildChain_getElem? hk, Option.map_eq_some_iff] at h
  obtain ⟨d', hd', rfl⟩ := h
  obtain ⟨first, planes, rfl, hplanes, hspan⟩ := mem_rowDescriptors (List.mem_of_getElem? hd')
  rw [Nat.max_eq_right (by rw [depth_eq]; omega)] at hspan
  refine ⟨k / descriptorsPerRow t, first, planes, Nat.div_lt_of_lt_mul (Nat.mul_comm .. ▸ hk), hplanes, hspan, ?_, ?_⟩
  · split <;> rfl
  · split <;> exact Nat.mul_div_cancel _ (by decide)

section
variable {c : Config} (hc : configOK c = true) {t : Nat} (ht : t < 8)
include hc ht

/-- A chain is not empty, and its indices fit DPOS. -/
theorem chainLength_bounds : 0 < rows c * descriptorsPerRow t ∧ rows c * descriptorsPerRow t < 2 ^ 16 := by
  have hconfig := configOK_iff.1 hc
  have hpow : 2 ^ (7 - t) ≤ 2 ^ 7 := Nat.pow_le_pow_right (by decide) (by omega)
  rw [descriptorsPerRow_eq]
  refine ⟨Nat.mul_pos hconfig.one_le_rows (Nat.two_pow_pos _), ?_⟩
  calc rows c * 2 ^ (7 - t)
    _ ≤ 32 * 2 ^ 7 := Nat.mul_le_mul hconfig.rows_le hpow
    _ < 2 ^ 16 := by decide

section
variable {k : Nat} {b : BufIdx} {d : Descriptor} (h : (buildChain c t b)[k]? = some d)
include h

/-- A descriptor is not empty, and its word positions fit WPOS. -/
theorem descriptorWords_bounds : 0 < d.len / 2 ∧ d.len / 2 < 2 ^ 16 := by
  have hconfig := configOK_iff.1 hc
  obtain ⟨r, first, planes, -, hplanes, hspan, -, hlen⟩ := buildChain_span ht h
  rw [depth_eq] at hspan
  rw [hlen]
  refine ⟨Nat.mul_pos hplanes (by have := hconfig.two_le_width; omega), ?_⟩
  calc planes * c.w
    _ ≤ 8 * 4096 := Nat.mul_le_mul (by omega) hconfig.width_le
    _ < 2 ^ 16 := by decide

/-- The word that a position of a descriptor names is in the buffer (R313, R314). -/
theorem descriptorWord_lt {i : Nat} (hi : i < d.len / 2) : d.off + (i ^^^ 1) < bufferWords c := by
  have hconfig := configOK_iff.1 hc
  obtain ⟨r, first, planes, hr, -, hspan, hoff, hlen⟩ := buildChain_span ht h
  have hslot : slot i < planes * c.w := by
    refine slot_lt ?_ (hlen ▸ hi)
    rw [Nat.mul_mod, hconfig.width_even, Nat.mul_zero]
  calc d.off + (i ^^^ 1)
    _ < (r * depth + first) * c.w + planes * c.w := by rw [hoff]; exact Nat.add_lt_add_left hslot _
    _ = (r * depth + (first + planes)) * c.w := by ring
    _ ≤ (r * depth + depth) * c.w := by gcongr
    _ = (r + 1) * depth * c.w := by ring
    _ ≤ bufferWords c := by rw [bufferWords]; gcongr; exact hr

end

/-- The replay agent can begin any descriptor of a chain. -/
theorem buildChain_begins {k : Nat} (b : BufIdx) (hk : k < rows c * descriptorsPerRow t) :
    ∃ d, (buildChain c t b)[k]? = some d ∧ 0 < d.len / 2 := by
  have hd := List.getElem?_eq_getElem (l := buildChain c t b) (by rwa [buildChain_length])
  exact ⟨_, hd, (descriptorWords_bounds hc ht hd).1⟩

end

end Sys2Proof.Machine

/-! SUPPORT. Whole frame stores: both buffers of the right length, with their words' unused bits 0 (R71, R102). -/

namespace Sys2Proof.Machine

theorem bufIdx_add_one_add_one (b : BufIdx) : b + 1 + 1 = b := by
  revert b
  decide

theorem bufIdx_add_one_ne (b : BufIdx) : b + 1 ≠ b := by
  revert b
  decide

/-- A buffer is whole word by word. -/
theorem bufferOK_iff {c : Config} {ws : List Word} :
    bufferOK c ws = true ↔
      ws.length = bufferWords c ∧ ∀ (i : Nat) w, ws[i]? = some w → unusedBitsZero c.layout w = true := by
  simp only [bufferOK, Bool.and_eq_true, decide_eq_true_eq, List.all_eq_true, List.mem_iff_getElem?,
    forall_exists_index]
  exact and_congr_right fun _ => forall_comm

/-- Both buffers of the frame store are whole. -/
def FrameStore.Whole (c : Config) (f : FrameStore) : Prop := ∀ b, bufferOK c (bufferOf f b) = true

theorem FrameStore.whole_iff {c : Config} {f : FrameStore} :
    f.Whole c ↔ bufferOK c f.buf0 = true ∧ bufferOK c f.buf1 = true := Fin.forall_fin_two

/-- A frame store is whole if one of its buffers and the other one are. -/
theorem FrameStore.Whole.of_both {c : Config} {f : FrameStore} (b : BufIdx) (hb : bufferOK c (bufferOf f b) = true)
    (hnext : bufferOK c (bufferOf f (b + 1)) = true) : f.Whole c := by
  rw [FrameStore.Whole, Fin.forall_fin_two]
  fin_cases b
  · exact ⟨hb, hnext⟩
  · exact ⟨hnext, hb⟩

theorem FrameStore.Whole.setBuffer {c : Config} {f : FrameStore} (h : f.Whole c) (b : BufIdx) {ws : List Word}
    (hws : bufferOK c ws = true) : (setBuffer f b ws).Whole c := by
  obtain ⟨h0, h1⟩ := FrameStore.whole_iff.1 h
  exact FrameStore.whole_iff.2 (bufferOK_setBuffer h0 h1 hws)

/-- SETPIXEL keeps the frame store whole: each word it stores takes its unused bits from the old one (R102, R150). -/
theorem ColumnReplaced.whole {s : State} {x y : Nat} {p : Rgb} {f f' : FrameStore} (h : ColumnReplaced s x y p f f')
    (hf : f.Whole s.cfg) : f'.Whole s.cfg := by
  obtain ⟨hlength, hwords⟩ := bufferOK_iff.1 (hf s.widx)
  refine .of_both s.widx (bufferOK_iff.2 ⟨h.length.trans hlength, fun i w hw => ?_⟩) (h.other ▸ hf (s.widx + 1))
  by_cases hi : ∃ j < depth, i = widx s.cfg (pixelRow s.cfg y).2 j (slot x)
  · obtain ⟨j, hj, rfl⟩ := hi
    obtain ⟨old, hold, hnew⟩ := h.column j hj
    obtain rfl := Option.some.inj (hnew.symm.trans hw)
    exact unusedBitsZero_mergedWord _ _ _ _ _ _ _ _ (hwords _ old hold)
  · push Not at hi
    exact hwords i w ((h.kept i hi).symm.trans hw)

end Sys2Proof.Machine

/-! SUPPORT. The invariant under each update of the state that a turn can make. -/

namespace Sys2Proof.Machine

/-- In a live block the chain being replayed leads to the buffer that is not the write target (R222, R393). -/
theorem State.LiveInv.linkOf_cur {s : State} (h : s.LiveInv) : linkOf s s.cur = s.widx + 1 := by
  rcases h.links with ⟨h0, -, hcur, hwidx⟩ | ⟨h0, h1⟩
  · rw [linkOf, if_pos hcur, h0, hwidx]
    rfl
  · rw [linkOf, h0, h1, ite_self]

theorem State.LiveInv.whole {s : State} (h : s.LiveInv) : ∃ f, s.fs = some f ∧ f.Whole s.cfg := by
  obtain ⟨f, hf, h0, h1⟩ := h.frames
  exact ⟨f, hf, FrameStore.whole_iff.2 ⟨h0, h1⟩⟩

/-- The invariant of a live state is its live part, the canonical form of host memory, and the wait's premise. -/
theorem State.Inv.of_live {s : State} (hlive : s.live = true) (memory : memWf s = true) (code : s.code.toNat ≤ 4)
    (live : s.LiveInv) (waiting : s.phase = .waitF → frameOK s = true) : s.Inv where
  memory := memory
  code := code
  whenLive _ := live
  whenIdle hdead := absurd hlive (by simp [hdead])
  waiting := waiting

theorem State.Inv.raiseFault {s : State} (h : s.Inv) (f : FaultBit) : (raiseFault f s).Inv :=
  h.of_unread (s.fault ||| faultMask f) s.hazard s.result s.out s.turns s.turnCount s.draws s.drawCount

theorem State.Inv.setResult {s : State} (h : s.Inv) (r : BitVec 32) : State.Inv { s with result := r } :=
  h.of_unread s.fault s.hazard r s.out s.turns s.turnCount s.draws s.drawCount

theorem State.Inv.emit {s : State} (h : s.Inv) (w : Word) : (emit w s).Inv :=
  h.of_unread s.fault s.hazard s.result (s.out ++ [w]) s.turns s.turnCount s.draws s.drawCount

theorem State.Inv.dropTurn {s : State} (h : s.Inv) : (dropTurn s).Inv := by
  unfold Machine.dropTurn
  split
  · exact h.of_unread s.fault s.hazard s.result s.out _ s.turnCount s.draws s.drawCount
  · exact h.of_unread s.fault s.hazard s.result s.out s.turns _ s.draws s.drawCount

theorem State.Inv.dropDraw {s : State} (h : s.Inv) : (dropDraw s).Inv := by
  obtain ⟨draws, drawCount, heq⟩ := dropDraw_eq s
  rw [heq]
  exact h.of_unread s.fault s.hazard s.result s.out s.turns s.turnCount draws drawCount

theorem codeBits_toNat_le (e : InitCode) : (codeBits e).toNat ≤ 4 := by
  cases e <;> decide

/-- Power-on reset leaves an idle block (R380). -/
theorem State.Inv.powerOn {s : State} (h : s.Inv) : (powerOn s).Inv where
  memory := h.memory
  code := Nat.zero_le 4
  whenLive hlive := absurd hlive (by simp)
  whenIdle _ := {
    stopped := rfl
    stores := ⟨rfl, rfl⟩
    registers := ⟨rfl, rfl, rfl, rfl, rfl, rfl, rfl, rfl, rfl, rfl⟩
    noWait := rfl }
  waiting hwait := absurd hwait (by simp)

/-- SHUTDOWN leaves an idle block, since no wait holds when a command runs (R240). -/
theorem State.Inv.stopLive {s : State} (h : s.Inv) (hidle : s.phase = .idle) : (stopLive s).Inv where
  memory := h.memory
  code := h.code
  whenLive hlive := absurd hlive (by simp)
  whenIdle _ := {
    stopped := rfl
    stores := ⟨rfl, rfl⟩
    registers := ⟨rfl, rfl, rfl, rfl, rfl, rfl, rfl, rfl, rfl, rfl⟩
    noWait := hidle }
  waiting hwait := absurd hwait (by simp [hidle])

/-- A failed INIT leaves the block as it was, and its code is legal (R231, R340). -/
theorem State.Inv.failInit {s : State} (h : s.Inv) (hdead : s.live = false) (e : InitCode) : (failInit e s).Inv where
  memory := h.memory
  code := codeBits_toNat_le e
  whenLive hlive := absurd hlive (by simp [hdead])
  whenIdle _ :=
    let idle := h.whenIdle hdead
    ⟨idle.stopped, idle.stores, idle.registers, idle.noWait⟩
  waiting := h.waiting

/-- A successful INIT establishes the live part of the invariant (R230, R232). -/
theorem startLive_inv {s : State} {t : Nat} (hmem : memWf s = true) (hc : configOK s.cfg = true) (ht : t < 8) :
    (startLive t s).Inv := by
  have hconfig := configOK_iff.1 hc
  have hbrightLow := hconfig.brightInit_nonneg
  have hbrightHigh := hconfig.brightInit_le
  have ht3 : (BitVec.ofNat 3 t).toNat = t := (BitVec.toNat_ofNat ..).trans (Nat.mod_eq_of_lt ht)
  have hblack := bufferOK_renderBuffer s.cfg t (dutyOf s.cfg s.cfg.brightInit.toNat) fun _ _ => ⟨0, 0, 0⟩
  obtain ⟨hpercent, hduty⟩ := brightness_toNat hc (p := s.cfg.brightInit.toNat) (by omega)
  refine .of_live rfl hmem (codeBits_toNat_le .ok) ?_ (fun hwait => absurd hwait (by simp))
  exact {
    config := hc
    running := rfl
    frames := ⟨_, rfl, hblack, hblack⟩
    chains := by rw [startLive_ds, startLive_cfg, startLive_t, ht3]
    position := by
      rw [startLive_cfg, startLive_t, ht3]
      exact buildChain_begins hc ht 0 (chainLength_bounds hc ht).1
    brightness := by
      rw [startLive_percent, startLive_duty, startLive_cfg, hpercent, hduty]
      exact ⟨by omega, rfl⟩
    links := .inl ⟨rfl, rfl, rfl, rfl⟩
    completed := fun hdone => absurd hdone (by simp) }

theorem State.Inv.runInit {s : State} (h : s.Inv) (hdead : s.live = false) : (runInit s).Inv := by
  unfold Machine.runInit
  split
  · exact h.dropDraw.failInit (by simpa using hdead) _
  · rename_i t hok
    obtain ⟨hc, hplan⟩ := initOutcome_eq_ok hok
    exact startLive_inv h.dropDraw.memory (by simpa using hc) (planTransitionBit_eq_some_iff.1 hplan).1

section
variable {s : State} (h : s.Inv) (hlive : s.live = true)
include h hlive

/-- Storing a legal percent keeps the percent and its duty legal (R265). -/
theorem State.Inv.setPercent {p : Nat} (hp : p ≤ 100) : (setPercent p s).Inv := by
  have live := h.whenLive hlive
  obtain ⟨hpercent, hduty⟩ := brightness_toNat live.config hp
  exact .of_live hlive h.memory h.code
    { live with
      brightness := by
        rw [setPercent_percent, setPercent_duty, setPercent_cfg, hpercent, hduty]
        exact ⟨hp, rfl⟩ }
    h.waiting

/-- A new write target keeps the invariant if it leaves both buffers whole (R155). -/
theorem State.Inv.withTarget {f : FrameStore} (hf : f.Whole s.cfg) : (withTarget f s).Inv :=
  .of_live hlive h.memory h.code
    { h.whenLive hlive with frames := ⟨f, rfl, FrameStore.whole_iff.1 hf⟩ }
    h.waiting

/-- A flip leads both links away from the new write target, and no completion is left (R222, R223). -/
theorem State.Inv.flipAndAdvance : (flipAndAdvance s).Inv :=
  .of_live hlive h.memory h.code
    { h.whenLive hlive with
      links := .inr ⟨(bufIdx_add_one_add_one s.widx).symm, (bufIdx_add_one_add_one s.widx).symm⟩
      completed := fun hdone => absurd hdone (by simp) }
    h.waiting

theorem State.Inv.clearDone : State.Inv { s with done := false } :=
  .of_live hlive h.memory h.code
    { h.whenLive hlive with completed := fun hdone => absurd hdone (by simp) }
    h.waiting

/-- A live block may begin or end a wait, FUPDATE's only with the caller's frame inside HOST_MEM (R226). -/
theorem State.Inv.setPhase {phase : Phase} (hframe : phase = .waitF → frameOK s = true) :
    State.Inv { s with phase := phase } :=
  .of_live hlive h.memory h.code { h.whenLive hlive with } hframe

theorem State.Inv.setPosition {dpos wpos : BitVec 16} {d : Descriptor}
    (hd : (buildChain s.cfg s.t.toNat s.cur)[dpos.toNat]? = some d) (hw : wpos.toNat < d.len / 2) :
    State.Inv { s with dpos := dpos, wpos := wpos } :=
  .of_live hlive h.memory h.code { h.whenLive hlive with position := ⟨d, hd, hw⟩ } h.waiting

/-- The pass end leads to the start of a chain, away from the write target (R316, R225). -/
theorem State.Inv.passEnd : (passEnd { s with wpos := 0 }).Inv := by
  have live := h.whenLive hlive
  have hcur : (Machine.passEnd { s with wpos := 0 }).cur = s.widx + 1 := live.linkOf_cur
  refine .of_live hlive h.memory h.code { live with position := ?_, links := ?_, completed := fun _ => hcur } h.waiting
  · exact buildChain_begins live.config s.t.isLt _ (chainLength_bounds live.config s.t.isLt).1
  · refine live.links.imp_left fun ⟨h0, h1, _, hwidx⟩ => ⟨h0, h1, ?_, hwidx⟩
    rw [hcur, hwidx]
    rfl

end

end Sys2Proof.Machine

/-! SUPPORT. The replay agent in an invariant state (R313): its word exists, and the next position is in its chain. -/

namespace Sys2Proof.Machine

theorem advance_of_inside {d : Descriptor} {s : State} (h : s.wpos.toNat + 1 ≠ d.len / 2) :
    advance d s = { s with wpos := s.wpos + 1 } := if_neg h

theorem advance_of_descriptor_end {d : Descriptor} {s : State} (h : s.wpos.toNat + 1 = d.len / 2)
    (heof : d.eof = false) : advance d s = { s with dpos := s.dpos + 1, wpos := 0 } := by
  simp [advance, h, heof]

theorem advance_of_chain_end {d : Descriptor} {s : State} (h : s.wpos.toNat + 1 = d.len / 2) (heof : d.eof = true) :
    advance d s = passEnd { s with wpos := 0 } := by
  simp [advance, h, heof]

theorem toNat_add_one_of_lt {x : BitVec 16} (h : x.toNat + 1 < 2 ^ 16) : (x + 1).toNat = x.toNat + 1 := by
  rw [BitVec.toNat_add]
  exact Nat.mod_eq_of_lt h

/-- The position after a word is again a word of the chain being replayed. -/
theorem State.Inv.advance {s : State} (h : s.Inv) (hlive : s.live = true) {d : Descriptor}
    (hd : (buildChain s.cfg s.t.toNat s.cur)[s.dpos.toNat]? = some d) (hw : s.wpos.toNat < d.len / 2) :
    (advance d s).Inv := by
  have hc := (h.whenLive hlive).config
  have hconfig := configOK_iff.1 hc
  by_cases hlast : s.wpos.toNat + 1 = d.len / 2
  · cases heof : d.eof with
    | true =>
      rw [advance_of_chain_end hlast heof]
      exact h.passEnd hlive
    | false =>
      have hdpos := (List.getElem?_eq_some_iff.1 hd).1
      have hlength := (chainLength_bounds hc s.t.isLt).2
      have heof_iff := (buildChain_shape (Nat.zero_lt_of_lt hconfig.two_le_width) s.t.isLt hd).2.2
      rw [buildChain_length] at hdpos
      rw [heof, iff_false_left Bool.false_ne_true] at heof_iff
      obtain ⟨d', hd', hbegins⟩ :=
        buildChain_begins hc s.t.isLt s.cur (k := s.dpos.toNat + 1) (by omega)
      rw [advance_of_descriptor_end hlast heof]
      refine h.setPosition hlive (d := d') ?_ hbegins
      rwa [toNat_add_one_of_lt (by omega)]
  · have hwords := (descriptorWords_bounds hc s.t.isLt hd).2
    rw [advance_of_inside hlast]
    refine h.setPosition hlive hd ?_
    rw [toNat_add_one_of_lt (by omega)]
    omega

/-- The replay agent of a live block always has a word to emit (R233). -/
theorem replayStep_of_liveInv {s : State} (h : s.LiveInv) :
    ∃ d w, (buildChain s.cfg s.t.toNat s.cur)[s.dpos.toNat]? = some d ∧ s.wpos.toNat < d.len / 2 ∧
      replayStep s = .next (advance d (emit w s)) := by
  obtain ⟨f, hf, hwhole⟩ := h.whole
  obtain ⟨d, hd, hw⟩ := h.position
  have hword : d.off + (s.wpos.toNat ^^^ 1) < (bufferOf f d.buf).length :=
    (bufferOK_iff.1 (hwhole d.buf)).1 ▸ descriptorWord_lt h.config s.t.isLt hd hw
  refine ⟨d, (bufferOf f d.buf)[d.off + (s.wpos.toNat ^^^ 1)], hd, hw, ?_⟩
  simp only [replayStep, h.running, h.chains, hf, Option.bind_some, chainOf_buildChains, hd, fsRead,
    List.getElem?_eq_getElem hword, if_true]

end Sys2Proof.Machine

/-! SUPPORT. In an invariant state every turn answers an invariant state: progress and preservation as one predicate of
what a turn answers, turn by turn and command by command. -/

namespace Sys2Proof.Machine

/-- The answer is a next state, and that state meets the invariant. -/
def AnswersInv (r : Result) : Prop := ∃ s', r = .next s' ∧ s'.Inv

theorem State.Inv.answers {s : State} (h : s.Inv) : AnswersInv (.next s) := ⟨s, rfl, h⟩

theorem whenLive_answersInv {s : State} (h : s.Inv) {body : Result} (hbody : s.live = true → AnswersInv body) :
    AnswersInv (whenLive s body) := by
  cases hlive : s.live with
  | true => rw [whenLive_of_live body hlive]; exact hbody hlive
  | false => rw [whenLive_of_not_live body hlive]; exact (h.raiseFault _).answers

theorem whenFrameOK_answersInv {s : State} (h : s.Inv) {body : Result} (hbody : frameOK s = true → AnswersInv body) :
    AnswersInv (whenFrameOK s body) := by
  cases hframe : frameOK s with
  | true => rw [whenFrameOK_of_ok body hframe]; exact hbody hframe
  | false => rw [whenFrameOK_of_not_ok body hframe]; exact (h.raiseFault _).answers

theorem renderTarget_answersInv {s : State} (h : s.Inv) (hlive : s.live = true) (pixel : Nat → Nat → Rgb) :
    AnswersInv (renderTarget pixel s) := by
  obtain ⟨f, hf, hwhole⟩ := (h.whenLive hlive).whole
  rw [renderTarget_eq_withTarget pixel hf]
  exact (h.withTarget hlive (hwhole.setBuffer _ (bufferOK_renderBuffer ..))).answers

theorem execInit_answersInv {s : State} (h : s.Inv) : AnswersInv (execInit s) := by
  unfold execInit
  split
  next => exact (h.raiseFault _).answers
  next hdead => exact (h.runInit (Bool.eq_false_iff.2 hdead)).answers

theorem execShutdown_answersInv {s : State} (h : s.Inv) (hidle : s.phase = .idle) : AnswersInv (execShutdown s) := by
  unfold execShutdown
  split
  · exact (h.stopLive hidle).answers
  · exact h.answers

theorem exec_setpixel_answersInv {s : State} (h : s.Inv) (x y : Nat) (p : Rgb) :
    AnswersInv (exec (.setpixel x y p) s) := by
  cases hlive : s.live with
  | false => exact whenLive_answersInv h (by simp [hlive])
  | true =>
    by_cases hin : x < s.cfg.w ∧ y < s.cfg.h
    · obtain ⟨f, hf, hwhole⟩ := (h.whenLive hlive).whole
      have hready : EncoderReady s f := ⟨hlive, (h.whenLive hlive).config, hf, (bufferOK_iff.1 (hwhole s.widx)).1⟩
      obtain ⟨f', hexec, hreplaced⟩ := exec_setpixel_of_inside hready p hin.1 hin.2
      exact ⟨_, hexec, h.withTarget hlive (hreplaced.whole hwhole)⟩
    · exact ⟨s, (setpixelOutsideThePanelIsIgnored s x y p (by omega)).1 hlive, h⟩

theorem execFsetpixel_answersInv {s : State} (h : s.Inv) (x y : Nat) (p : Rgb) :
    AnswersInv (execFsetpixel x y p s) := by
  refine whenFrameOK_answersInv h fun _ => ?_
  split
  · exact h.answers
  · exact (h.of_mem _ (memWf_writeCallerPixel x y p h.memory)).answers

/-- A new caller's frame address keeps the invariant while no wait holds (R290). -/
theorem State.Inv.setFrameBase {s : State} (h : s.Inv) (hidle : s.phase = .idle) (addr : BitVec 32) :
    State.Inv { s with frameBase := addr } where
  memory := h.memory
  code := h.code
  whenLive hlive := { h.whenLive hlive with }
  whenIdle hdead := { h.whenIdle hdead with }
  waiting hwait := absurd hwait (by simp [hidle])

theorem State.Inv.fillCallerFrame {s : State} (h : s.Inv) (p : Rgb) : (fillCallerFrame p s).Inv := by
  have hmem := memWf_fillCallerFrame p h.memory
  rw [fillCallerFrame_eq] at hmem ⊢
  exact h.of_mem _ hmem

theorem State.Inv.clearCallerFrame {s : State} (h : s.Inv) : (clearCallerFrame s).Inv := by
  have hmem := memWf_clearCallerFrame h.memory
  rw [clearCallerFrame_eq] at hmem ⊢
  exact h.of_mem _ hmem

/-- Every command, when no wait holds, answers an invariant state (R352). -/
theorem exec_answersInv {s : State} (h : s.Inv) (hidle : s.phase = .idle) (i : Instr) : AnswersInv (exec i s) := by
  cases i with
  | nop => exact h.answers
  | init => exact execInit_answersInv h
  | shutdown => exact execShutdown_answersInv h hidle
  | setbright percent =>
    exact whenLive_answersInv h fun hlive => ((h.setPercent hlive (clampPercent_le percent)).setResult _).answers
  | getbright => exact whenLive_answersInv h fun _ => (h.setResult _).answers
  | setpixel x y colour => exact exec_setpixel_answersInv h x y colour
  | fill colour => exact whenLive_answersInv h fun hlive => renderTarget_answersInv h hlive _
  | update => exact whenLive_answersInv h fun hlive => (h.flipAndAdvance hlive).answers
  | updateB =>
    exact whenLive_answersInv h fun hlive => ((h.flipAndAdvance hlive).setPhase hlive (by simp)).answers
  | encodeframe =>
    exact whenLive_answersInv h fun hlive => whenFrameOK_answersInv h fun _ => renderTarget_answersInv h hlive _
  | fupdate =>
    exact whenLive_answersInv h fun hlive => whenFrameOK_answersInv h fun hframe =>
      (h.setPhase hlive fun _ => hframe).answers
  | setframebase addr => exact (h.setFrameBase hidle addr).answers
  | fsetpixel x y colour => exact execFsetpixel_answersInv h x y colour
  | ffill colour => exact whenFrameOK_answersInv h fun _ => (h.fillCallerFrame colour).answers
  | fclear => exact whenFrameOK_answersInv h fun _ => h.clearCallerFrame.answers
  | reservedE => exact (h.raiseFault _).answers
  | reservedF => exact (h.raiseFault _).answers

theorem presentCommand_answersInv {s : State} (h : s.Inv) (w : CommandWord) : AnswersInv (presentCommand w s) := by
  by_cases hidle : s.phase = .idle
  · rw [presentCommand_of_idle w hidle]
    exact exec_answersInv h hidle _
  · rw [presentCommand_of_waiting w hidle]
    exact (h.raiseFault _).answers

theorem replayStep_answersInv {s : State} (h : s.Inv) : AnswersInv (replayStep s) := by
  cases hlive : s.live with
  | true =>
    obtain ⟨d, w, hd, hw, hstep⟩ := replayStep_of_liveInv (h.whenLive hlive)
    exact ⟨_, hstep, (h.emit w).advance hlive hd hw⟩
  | false =>
    have hstep : replayStep s = .next s := if_neg (by simp [(h.whenIdle hlive).stopped])
    exact ⟨s, hstep, h⟩

/-- FUPDATE's second part encodes, flips and returns (R226). -/
theorem finishFupdate_of_render {s u : State} (hframe : frameOK s = true)
    (hrender : renderTarget (callerPixel s) s = .next u) :
    finishFupdate s = .next { flipAndAdvance u with phase := .idle } := by
  simp [finishFupdate, hframe, hrender]

/-- A wait step that is not enabled changes nothing (R224; log entry 2). -/
theorem waitStep_of_not_enabled {s : State} (h : s.phase = .idle ∨ s.done = false) : waitStep s = .next s := by
  unfold waitStep
  split
  · rfl
  · simp [h.resolve_left (by simp [*])]
  · simp [h.resolve_left (by simp [*])]

theorem waitStep_of_waitU {s : State} (hwait : s.phase = .waitU) (hdone : s.done = true) :
    waitStep s = .next { s with done := false, phase := .idle } := by
  simp [waitStep, hwait, hdone]

theorem waitStep_of_waitF {s : State} (hwait : s.phase = .waitF) (hdone : s.done = true) :
    waitStep s = finishFupdate { s with done := false } := by
  simp [waitStep, hwait, hdone]

theorem finishFupdate_answersInv {s : State} (h : s.Inv) (hlive : s.live = true) (hframe : frameOK s = true) :
    AnswersInv (finishFupdate s) := by
  obtain ⟨f, hf, hwhole⟩ := (h.whenLive hlive).whole
  have htarget := h.withTarget hlive (hwhole.setBuffer s.widx
    (bufferOK_renderBuffer s.cfg s.t.toNat s.duty.toNat (callerPixel s)))
  rw [finishFupdate_of_render hframe (renderTarget_eq_withTarget _ hf)]
  exact ((htarget.flipAndAdvance hlive).setPhase hlive (by simp)).answers

theorem waitStep_answersInv {s : State} (h : s.Inv) : AnswersInv (waitStep s) := by
  cases hdone : s.done with
  | false => exact waitStep_of_not_enabled (.inr hdone) ▸ h.answers
  | true =>
    cases hphase : s.phase with
    | idle => exact waitStep_of_not_enabled (.inl hphase) ▸ h.answers
    | waitU =>
      have hlive := h.live_of_waiting (by simp [hphase])
      rw [waitStep_of_waitU hphase hdone]
      exact ((h.clearDone hlive).setPhase hlive (by simp)).answers
    | waitF =>
      have hlive := h.live_of_waiting (by simp [hphase])
      rw [waitStep_of_waitF hphase hdone]
      exact finishFupdate_answersInv (h.clearDone hlive) hlive (h.waiting hphase)

/-- Every turn of an invariant state answers an invariant state. -/
theorem turnStep_answersInv {s : State} (h : s.Inv) (turn : Turn) : AnswersInv (turnStep turn s) := by
  cases turn with
  | command w => exact presentCommand_answersInv h w
  | wait => exact waitStep_answersInv h
  | replay => exact replayStep_answersInv h
  | powerOn => exact h.powerOn.answers

theorem step_answersInv {s : State} (h : s.Inv) : AnswersInv (step s) := turnStep_answersInv h.dropTurn _

/-- An invariant state is all that such an answer can be. -/
theorem AnswersInv.inv_of_eq_next {r : Result} {s' : State} (h : AnswersInv r) (hr : r = .next s') : s'.Inv := by
  obtain ⟨u, hu, hinv⟩ := h
  cases hu.symm.trans hr
  exact hinv

/-- Settles O59: the step answers an invariant state, and it answers this one. -/
theorem everyStepKeepsTheInvariant : Obligations.EveryStepKeepsTheInvariant :=
  fun _ _ h hstep => (step_answersInv h).inv_of_eq_next hstep

/-- Settles O60: the step answers an invariant state. -/
theorem everyStepAnswersANextState : Obligations.EveryStepAnswersANextState := by
  intro s h
  obtain ⟨s', hstep, -⟩ := step_answersInv h
  exact ⟨s', hstep⟩

end Sys2Proof.Machine

/-! SUPPORT. The swap and sync controller (R220 to R227): what a flip and a wait step answer, and what a wait keeps. -/

namespace Sys2Proof.Machine

/-- Settles O28: the LIVE test passes, and the flip is the one of R222 and R223. -/
theorem updateFlipsToTheWriteTarget : Obligations.UpdateFlipsToTheWriteTarget :=
  fun _ hlive => ⟨whenLive_of_live _ hlive, whenLive_of_live _ hlive⟩

/-- Settles O29: the wait step's two answers outside FUPDATE. -/
theorem waitStepConsumesTheCompletion : Obligations.WaitStepConsumesTheCompletion :=
  fun _ => ⟨waitStep_of_not_enabled, waitStep_of_waitU⟩

/-- Settles O30: the first part's two tests pass, and the second part renders the caller's frame, then flips. -/
theorem fupdateWaitsEncodesAndFlips : Obligations.FupdateWaitsEncodesAndFlips := by
  intro s f hlive hconfig hstores hframe caller
  refine ⟨(whenLive_of_live _ hlive).trans (whenFrameOK_of_ok _ hframe),
    fun hdone => waitStep_of_not_enabled (s := { s with phase := .waitF }) (.inr hdone), fun hdone => ?_⟩
  obtain ⟨f', hrender, hother, hlength, hwords⟩ := renderTarget_writes_every_word
    (callerPixel { s with phase := .waitF, done := false }) (s := { s with phase := .waitF, done := false })
    hconfig hstores
  refine ⟨f', ?_, hother, hlength, hwords⟩
  calc turnStep .wait { s with phase := .waitF }
    _ = finishFupdate { s with phase := .waitF, done := false } :=
      waitStep_of_waitF (s := { s with phase := .waitF }) rfl hdone
    _ = .next { flipAndAdvance (withTarget f' { s with phase := .waitF, done := false }) with phase := .idle } :=
      finishFupdate_of_render hframe hrender

/-- The replay agent of a live block owns the chain it replays and the one that leads to (R49). -/
theorem State.LiveInv.hwOwns_iff {s : State} (h : s.LiveInv) (b : BufIdx) :
    hwOwns s b = true ↔ b = s.cur ∨ b = s.widx + 1 := by
  rw [hwOwns, h.running, h.linkOf_cur]
  simp

/-- Once the completion is there the replay agent has left the write target for good, so it owns the other buffer
alone (R225, R227). -/
theorem State.LiveInv.hwOwns_iff_of_done {s : State} (h : s.LiveInv) (hdone : s.done = true) (b : BufIdx) :
    hwOwns s b = true ↔ b = s.widx + 1 := by
  rw [h.hwOwns_iff, h.completed hdone, or_self]

theorem State.LiveInv.not_hwOwns_widx_of_done {s : State} (h : s.LiveInv) (hdone : s.done = true) :
    hwOwns s s.widx = false :=
  Bool.eq_false_iff.2 fun howns => bufIdx_add_one_ne s.widx ((h.hwOwns_iff_of_done hdone _).1 howns).symm

/-- Settles O32: at its second part FUPDATE writes a buffer the agent does not own, so the tear record stays. -/
theorem fupdateNeverTears : Obligations.FupdateNeverTears := by
  intro s h hwait hdone
  have hlive := h.live_of_waiting (by simp [hwait])
  have live := h.whenLive hlive
  have hcur := live.completed hdone
  have howns := live.not_hwOwns_widx_of_done hdone
  refine ⟨howns, hcur, live.linkOf_cur.trans hcur.symm, ?_⟩
  obtain ⟨f, hf, -⟩ := live.whole
  have hrender := renderTarget_eq_withTarget (callerPixel { s with done := false }) (s := { s with done := false }) hf
  refine ⟨_, (waitStep_of_waitF hwait hdone).trans (finishFupdate_of_render (h.waiting hwait) hrender), rfl, ?_⟩
  change (s.hazard || hwOwns s s.widx) = s.hazard
  rw [howns, Bool.or_false]

/-- Both links lead to buffer `b`, and the write target is the other one: what a flip to `b` leaves (R222, R223). -/
structure FlippedTo (b : BufIdx) (s : State) : Prop where
  link0 : s.link0 = b
  link1 : s.link1 = b
  widx : s.widx = b + 1

/-- No turn but power-on reset undoes a flip while a blocking UPDATE waits: command words are rejected, and neither the
wait step nor the replay agent writes LINK or WIDX (R110, R224, R316). -/
theorem FlippedTo.turnStep {b : BufIdx} {s s' : State} (h : FlippedTo b s) (hwait : s.phase = .waitU) {turn : Turn}
    (hturn : turn ≠ .powerOn) (hstep : turnStep turn s = .next s') : FlippedTo b s' := by
  cases turn with
  | command w =>
    cases (presentCommand_of_waiting w (by simp [hwait])).symm.trans hstep
    exact ⟨h.link0, h.link1, h.widx⟩
  | wait =>
    rcases waitStep_eq_next hstep with ⟨-, rfl⟩ | ⟨-, -, rfl⟩ | ⟨hwaitF, -, -⟩
    · exact h
    · exact ⟨h.link0, h.link1, h.widx⟩
    · exact absurd (hwait.symm.trans hwaitF) (by decide)
  | replay =>
    rcases replayStep_eq_next hstep with ⟨-, rfl⟩ | ⟨-, ds, d, f, w, -, -, -, -, rfl⟩
    · exact h
    · rw [(advance_eq d (emit w s)).1]
      exact ⟨h.link0, h.link1, h.widx⟩
  | powerOn => exact absurd rfl hturn

/-- A run of one turn and more answers what the rest of it answers after that turn. -/
theorem runTurns_cons_eq_next {turn : Turn} {turns : List Turn} {s s' : State} :
    runTurns (turn :: turns) s = .next s' ↔ ∃ u, turnStep turn s = .next u ∧ runTurns turns u = .next s' := by
  rw [runTurns]
  cases turnStep turn s <;> simp

/-- The wait of a blocking UPDATE holds before the turns and after each of them. -/
def WaitsThrough (turns : List Turn) (s : State) : Prop :=
  ∀ ts rest u, turns = ts ++ rest → runTurns ts s = .next u → u.phase = .waitU

theorem WaitsThrough.tail {turn : Turn} {turns : List Turn} {s u : State} (h : WaitsThrough (turn :: turns) s)
    (hstep : turnStep turn s = .next u) : WaitsThrough turns u := fun ts rest v hsplit hrun =>
  h (turn :: ts) rest v (by rw [hsplit, List.cons_append]) (runTurns_cons_eq_next.2 ⟨u, hstep, hrun⟩)

/-- The invariant and the flip hold to the end of a run through which the wait does. -/
theorem runTurns_keeps_flip {b : BufIdx} {turns : List Turn} {s s' : State} (hpower : noPowerOn turns = true)
    (hwait : WaitsThrough turns s) (hrun : runTurns turns s = .next s') (hinv : s.Inv) (hflip : FlippedTo b s) :
    s'.Inv ∧ FlippedTo b s' := by
  induction turns generalizing s with
  | nil =>
    cases hrun
    exact ⟨hinv, hflip⟩
  | cons turn turns ih =>
    obtain ⟨u, hstep, hrun⟩ := runTurns_cons_eq_next.1 hrun
    obtain ⟨hturn, hpower⟩ := Bool.and_eq_true_iff.1 hpower
    exact ih hpower (hwait.tail hstep) hrun ((turnStep_answersInv hinv turn).inv_of_eq_next hstep)
      (hflip.turnStep (hwait [] _ s rfl rfl) (of_decide_eq_true hturn) hstep)

/-- Settles O31: the flip lasts through the wait, and with the completion there the agent owns the flipped buffer
alone. -/
theorem noTearingAfterABlockingUpdate : Obligations.NoTearingAfterABlockingUpdate := by
  intro s s₁ s₂ s₃ turns hinv hlive hidle hexec hpower hwait hrun hdone hlast
  have hwait : WaitsThrough turns s₁ := hwait
  have hinv₁ : s₁.Inv := (exec_answersInv hinv hidle .updateB).inv_of_eq_next hexec
  have hflip₁ : FlippedTo s.widx s₁ := by
    cases ((updateFlipsToTheWriteTarget s hlive).2).symm.trans hexec
    exact ⟨rfl, rfl, rfl⟩
  obtain ⟨hinv₂, hlink0, hlink1, hwidx⟩ := runTurns_keeps_flip hpower hwait hrun hinv₁ hflip₁
  have hwait₂ : s₂.phase = .waitU := hwait turns [] s₂ (List.append_nil turns).symm hrun
  have live₂ := hinv₂.whenLive (hinv₂.live_of_waiting (by simp [hwait₂]))
  have hnext : s₂.widx + 1 = s.widx := by rw [hwidx, bufIdx_add_one_add_one]
  cases (waitStep_of_waitU hwait₂ hdone).symm.trans hlast
  refine ⟨rfl, (live₂.completed hdone).trans hnext, ?_, hwidx, fun b => ?_, live₂.not_hwOwns_widx_of_done hdone⟩
  · change (if s.widx = 0 then s₂.link0 else s₂.link1) = s.widx
    rw [hlink0, hlink1, ite_self]
  · exact hnext ▸ live₂.hwOwns_iff_of_done hdone b

end Sys2Proof.Machine

/-! SUPPORT. INIT and SHUTDOWN (R230 to R241): the configuration check in the spec's terms, and what each outcome of
INIT's steps leaves. -/

namespace Sys2Proof.Machine

theorem gammaLookup_ofNat (c : Config) (v : Fin 256) : gammaLookup c (BitVec.ofNat 8 v) = c.gamma[v] := by
  simp [gammaLookup]

/-- The laws of the gamma table, entry by entry (R260). -/
theorem gammaLawful_iff {c : Config} :
    gammaLawful c = true ↔
      (∀ u v : Fin 256, u ≤ v → c.gamma[u].toNat ≤ c.gamma[v].toNat) ∧ c.gamma[0].toNat = 0 ∧
        c.gamma[255].toNat = 255 := by
  constructor
  · intro h
    obtain ⟨hfirst, hlast⟩ := gamma_ends h
    refine ⟨fun u v huv => ?_, congrArg BitVec.toNat hfirst, congrArg BitVec.toNat hlast⟩
    rw [← gammaLookup_ofNat, ← gammaLookup_ofNat]
    exact gamma_le_of_le h huv (Nat.le_of_lt_succ v.isLt)
  · rintro ⟨hmono, hfirst, hlast⟩
    simp only [gammaLawful, Bool.and_eq_true, List.all_eq_true, List.mem_range, decide_eq_true_eq]
    refine ⟨⟨fun v hv => ?_, BitVec.eq_of_toNat_eq hfirst⟩, BitVec.eq_of_toNat_eq hlast⟩
    have hle := hmono ⟨v, by omega⟩ ⟨v + 1, by omega⟩ (Nat.le_succ v)
    rwa [← gammaLookup_ofNat, ← gammaLookup_ofNat] at hle

theorem descriptorTooLong_iff {c : Config} {t : Nat} :
    descriptorTooLong c t = true ↔ c.descMaxBytes < max (t + 1) (8 - t - 1) * c.w * 2 := decide_eq_true_iff

/-- The black pixel's word is the base word (R141, R260). -/
theorem pixelWord_black {c : Config} (hc : configOK c = true) (t duty r j x : Nat) :
    pixelWord c t duty ⟨0, 0, 0⟩ ⟨0, 0, 0⟩ r j x = baseWord c t duty r j x := by
  rw [pixelWord, corrRgb_black (configOK_iff.1 hc).gamma, rgb1_black, rgb2_black]
  simp

/-- A black buffer is whole and holds the base words (R230 step 9). -/
theorem blackBuffer_widx {c : Config} (hc : configOK c = true) (t duty : Nat) {r j x : Nat} (hr : r < rows c)
    (hj : j < depth) (hx : x < c.w) :
    (blackBuffer c t duty)[widx c r j (slot x)]? = some (baseWord c t duty r j x) := by
  rw [blackBuffer, renderBuffer_widx _ _ _ hr hj (slot_lt (configOK_iff.1 hc).width_even hx), pixelWord_black hc]

/-- The frame store that a successful INIT leaves: both buffers black (R230 step 9). -/
def blackStore (c : Config) (t duty : Nat) : FrameStore := ⟨blackBuffer c t duty, blackBuffer c t duty⟩

theorem bufferOf_blackStore (c : Config) (t duty : Nat) (b : BufIdx) :
    bufferOf (blackStore c t duty) b = blackBuffer c t duty := ite_self _

section
variable {s : State} (hdead : s.live = false)
include hdead

theorem exec_init_of_not_live : exec .init s = .next (runInit s) := if_neg (Bool.eq_false_iff.1 hdead)

theorem exec_init_of_ok {t : Nat} (h : initOutcome s.cfg (currentDraw s) = .ok t) :
    exec .init s = .next (startLive t (dropDraw s)) := by
  rw [exec_init_of_not_live hdead]
  unfold runInit
  split
  next e he => cases he.symm.trans h
  next u hu =>
    cases hu.symm.trans h
    rfl

theorem exec_init_of_error {e : InitCode} (h : initOutcome s.cfg (currentDraw s) = .error e) :
    exec .init s = .next (failInit e (dropDraw s)) := by
  rw [exec_init_of_not_live hdead]
  unfold runInit
  split
  next u hu =>
    cases hu.symm.trans h
    rfl
  next t ht => cases ht.symm.trans h

end

/-- Settles O38: the LIVE test comes first, and F_REINIT is bit 2. -/
theorem initWhileLiveRaisesReinit : Obligations.InitWhileLiveRaisesReinit := fun _ hlive => if_pos hlive

theorem descriptorTooLong_eq_false_iff {c : Config} {t : Nat} :
    descriptorTooLong c t = false ↔ max (t + 1) (8 - t - 1) * c.w * 2 ≤ c.descMaxBytes := by
  rw [← Bool.not_eq_true, descriptorTooLong_iff, Nat.not_lt]

/-! INIT's outcome, step by step (R230, R341): each lemma takes the steps before its own as passed. -/

section
variable {c : Config} {d : InitDraw}

theorem initOutcome_of_rejected (hc : configOK c = false) : initOutcome c d = .error .errConfig := by
  simp [initOutcome, hc]

section
variable (hc : configOK c = true)
include hc

theorem initOutcome_of_no_buffers (hfs : d.allocFs0 = false ∨ d.allocFs1 = false) :
    initOutcome c d = .error .errNoMem := by
  rw [initOutcome_of_accepted d hc]
  rcases hfs with hfs | hfs <;> simp [hfs]

variable (hfs0 : d.allocFs0 = true) (hfs1 : d.allocFs1 = true)
include hfs0 hfs1

theorem initOutcome_of_no_plan (hplan : planTransitionBit c d = none) : initOutcome c d = .error .errResource := by
  simp [initOutcome_of_accepted d hc, hfs0, hfs1, hplan]

variable {t : Nat} (hplan : planTransitionBit c d = some t)
include hplan

theorem initOutcome_of_too_long (hlong : descriptorTooLong c t = true) : initOutcome c d = .error .errConfig := by
  simp [initOutcome_of_accepted d hc, hfs0, hfs1, hplan, hlong]

variable (hshort : descriptorTooLong c t = false)
include hshort

theorem initOutcome_of_no_arrays_or_signal
    (halloc : d.allocDs0 = false ∨ d.allocDs1 = false ∨ d.allocSignal = false) :
    initOutcome c d = .error .errNoMem := by
  simp only [initOutcome_of_accepted d hc, hfs0, hfs1, hplan, hshort]
  rcases halloc with halloc | halloc | halloc <;> simp [halloc]

variable (hds0 : d.allocDs0 = true) (hds1 : d.allocDs1 = true) (hsignal : d.allocSignal = true)
include hds0 hds1 hsignal

theorem initOutcome_of_no_setup (hsetup : d.setupOk = false) : initOutcome c d = .error .errPeriph := by
  simp [initOutcome_of_accepted d hc, hfs0, hfs1, hplan, hshort, hds0, hds1, hsignal, hsetup]

theorem initOutcome_of_success (hsetup : d.setupOk = true) : initOutcome c d = .ok t := by
  simp [initOutcome_of_accepted d hc, hfs0, hfs1, hplan, hshort, hds0, hds1, hsignal, hsetup]

end

end

/-- Settles O36: every step succeeds, and the two black buffers hold the base words. -/
theorem initStartsTheBlock : Obligations.InitStartsTheBlock := by
  intro s t hdead hc hfs0 hfs1 hplan hlen hds0 hds1 hsignal hsetup
  have hok := initOutcome_of_success hc hfs0 hfs1 hplan (descriptorTooLong_eq_false_iff.2 hlen) hds0 hds1 hsignal hsetup
  refine ⟨s.cfg.brightInit.toNat, blackStore s.cfg t (dutyOf s.cfg s.cfg.brightInit.toNat),
    Int.toNat_of_nonneg (configOK_iff.1 hc).brightInit_nonneg, ?_, fun b r j x hr hj hx => ?_⟩
  · rw [exec_init_of_ok hdead hok]
    simp [startLive, setPercent, codeBits, blackStore]
  · rw [fsRead, bufferOf_blackStore]
    exact ⟨renderBuffer_length .., blackBuffer_widx hc t _ hr hj hx⟩

/-- Settles O37: the check is read row by row, and each failure is the first of INIT's steps that does not pass. -/
theorem initReportsTheFirstFailure : Obligations.InitReportsTheFirstFailure := by
  refine ⟨fun c => configOK_iff.trans ⟨fun h => ?_, fun h => ?_⟩, fun s hdead => ?_⟩
  · obtain ⟨hlt, hnodup⟩ := layoutLawful_iff.1 h.layout
    exact ⟨depth_eq, h.rip, ⟨h.height.trans (congrArg (· * rows c) h.rip.symm), h.one_le_rows, h.rows_le⟩,
      ⟨h.width_even, h.two_le_width, h.width_le⟩, ⟨h.one_le_latchNs, h.one_le_descSize⟩,
      ⟨h.minRefreshHz_nonneg, h.reservedBytes_nonneg⟩, h.descMaxBytes, gammaLawful_iff.1 h.gamma,
      ⟨hnodup, fun p hp => Nat.le_of_lt_succ (hlt p hp)⟩,
      ⟨h.prevRow0_nonneg, h.prevRow0_le, h.brightInit_nonneg, h.brightInit_le⟩⟩
  · obtain ⟨-, hrip, ⟨hheight, hrowsLow, hrowsHigh⟩, ⟨heven, hwidthLow, hwidthHigh⟩, ⟨hlatch, hsize⟩,
      ⟨hrefresh, hreserved⟩, hmax, hgamma, ⟨hnodup, hle⟩, hprevLow, hprevHigh, hbrightLow, hbrightHigh⟩ := h
    exact ⟨hrip, hrip ▸ hheight, hrowsLow, hrowsHigh, heven, hwidthLow, hwidthHigh, hlatch, hsize, hrefresh,
      hreserved, hmax, gammaLawful_iff.2 hgamma, layoutLawful_iff.2 ⟨fun p hp => Nat.lt_succ_of_le (hle p hp), hnodup⟩,
      hprevLow, hprevHigh, hbrightLow, hbrightHigh⟩
  · intro d failsWith
    have fails {e : InitCode} (h : initOutcome s.cfg d = .error e) : failsWith (codeBits e) :=
      exec_init_of_error hdead h
    refine ⟨fun hc => fails (initOutcome_of_rejected hc), fun hc hfs => fails (initOutcome_of_no_buffers hc hfs),
      fun hc hfs0 hfs1 => ⟨fun hplan => fails (initOutcome_of_no_plan hc hfs0 hfs1 hplan), fun t hplan =>
        ⟨fun hlong => ?_, fun hlen => ?_⟩⟩⟩
    · exact fails (initOutcome_of_too_long hc hfs0 hfs1 hplan (descriptorTooLong_iff.2 hlong))
    · have hshort := descriptorTooLong_eq_false_iff.2 hlen
      exact ⟨fun halloc => fails (initOutcome_of_no_arrays_or_signal hc hfs0 hfs1 hplan hshort halloc),
        fun hds0 hds1 hsignal hsetup =>
          fails (initOutcome_of_no_setup hc hfs0 hfs1 hplan hshort hds0 hds1 hsignal hsetup)⟩

theorem exec_shutdown_of_live {s : State} (hlive : s.live = true) : exec .shutdown s = .next (stopLive s) :=
  if_pos hlive

theorem exec_shutdown_of_not_live {s : State} (hdead : s.live = false) : exec .shutdown s = .next s :=
  if_neg (Bool.eq_false_iff.1 hdead)

/-- Settles O39: SHUTDOWN leaves a block that is not live, and such a block as it is. -/
theorem shutdownStopsAndIsIdempotent : Obligations.ShutdownStopsAndIsIdempotent := by
  refine ⟨fun s => exec_shutdown_of_live, fun s => exec_shutdown_of_not_live, fun s s' h => ?_⟩
  cases hlive : s.live with
  | true =>
    cases (exec_shutdown_of_live hlive).symm.trans h
    exact exec_shutdown_of_not_live rfl
  | false =>
    cases (exec_shutdown_of_not_live hlive).symm.trans h
    exact h

end Sys2Proof.Machine

/-! SUPPORT. SETBRIGHT and GETBRIGHT of a live block (R265, R266), and the duty function over its whole range (R262 to
R264): its ends and its monotonicity, mode by mode. -/

namespace Sys2Proof.Machine

/-- Settles O14: the LIVE test passes. -/
theorem getbrightReturnsThePercent : Obligations.GetbrightReturnsThePercent :=
  fun _ hlive => whenLive_of_live _ hlive

theorem clampPercent_toInt (p : Int) : (clampPercent p : Int) = min 100 (max 0 p) := by
  rw [clampPercent]
  omega

/-- Settles O13: the LIVE test passes, and the percent stored is the clamped one. -/
theorem setbrightStoresTheClampedPercent : Obligations.SetbrightStoresTheClampedPercent :=
  fun p _ hlive => ⟨clampPercent p, clampPercent_toInt p, whenLive_of_live _ hlive⟩

theorem lin_zero (c : Config) : lin c 0 = 0 := by
  rw [lin]
  omega

theorem lin_hundred (c : Config) : lin c 100 = c.w := by
  rw [lin]
  omega

theorem lin_mono (c : Config) {p q : Nat} (hpq : p ≤ q) : lin c p ≤ lin c q :=
  Nat.div_le_div_right (Nat.add_le_add_right (Nat.mul_le_mul_right c.w hpq) 50)

/-- The index at which `corrB` reads the gamma table: the duty scaled to 0 .. 255 and rounded (R263). -/
def gammaIndex (c : Config) (d : Nat) : Nat := (d * 255 + c.w / 2) / c.w

theorem corrB_eq (c : Config) (d : Nat) :
    corrB c d = ((gammaLookup c (BitVec.ofNat 8 (gammaIndex c d))).toNat * c.w + 127) / 255 := rfl

theorem gammaIndex_zero {c : Config} (hw : 1 ≤ c.w) : gammaIndex c 0 = 0 := by
  refine Nat.div_eq_of_lt ?_
  omega

theorem gammaIndex_width {c : Config} (hw : 1 ≤ c.w) : gammaIndex c c.w = 255 := by
  have hhalf : c.w / 2 / c.w = 0 := Nat.div_eq_of_lt (by omega)
  rw [gammaIndex, Nat.mul_add_div hw, hhalf]

theorem gammaIndex_mono (c : Config) {d e : Nat} (hde : d ≤ e) : gammaIndex c d ≤ gammaIndex c e :=
  Nat.div_le_div_right (Nat.add_le_add_right (Nat.mul_le_mul_right 255 hde) _)

/-- A duty within the width stays inside the table (R263, log entry 20). -/
theorem gammaIndex_le {c : Config} (hw : 1 ≤ c.w) {d : Nat} (hd : d ≤ c.w) : gammaIndex c d ≤ 255 :=
  (gammaIndex_mono c hd).trans_eq (gammaIndex_width hw)

theorem corrB_zero {c : Config} (hg : gammaLawful c = true) (hw : 1 ≤ c.w) : corrB c 0 = 0 := by
  have hread : gammaLookup c (BitVec.ofNat 8 0) = 0#8 := (gamma_ends hg).1
  rw [corrB_eq, gammaIndex_zero hw, hread, BitVec.toNat_ofNat]
  omega

theorem corrB_width {c : Config} (hg : gammaLawful c = true) (hw : 1 ≤ c.w) : corrB c c.w = c.w := by
  have hread : gammaLookup c (BitVec.ofNat 8 255) = 255#8 := (gamma_ends hg).2
  rw [corrB_eq, gammaIndex_width hw, hread, BitVec.toNat_ofNat]
  omega

theorem corrB_mono {c : Config} (hg : gammaLawful c = true) (hw : 1 ≤ c.w) {d e : Nat} (hde : d ≤ e) (he : e ≤ c.w) :
    corrB c d ≤ corrB c e := by
  have hread := gamma_le_of_le hg (gammaIndex_mono c hde) (gammaIndex_le hw he)
  exact Nat.div_le_div_right (Nat.add_le_add_right (Nat.mul_le_mul_right c.w hread) 127)

theorem dutyOf_of_none {c : Config} (h : c.corrMode = .none) (p : Nat) : dutyOf c p = lin c p := by
  rw [dutyOf, h]

theorem dutyOf_of_strict {c : Config} (h : c.corrMode = .strict) (p : Nat) : dutyOf c p = corrB c (lin c p) := by
  rw [dutyOf, h]

theorem dutyOf_of_modified_of_pos {c : Config} (h : c.corrMode = .modified) {p : Nat} (hlin : 0 < lin c p) :
    dutyOf c p = max 1 (corrB c (lin c p)) := by
  rw [dutyOf, h]
  exact if_pos hlin

theorem dutyOf_of_modified_of_zero {c : Config} (h : c.corrMode = .modified) {p : Nat} (hlin : lin c p = 0) :
    dutyOf c p = 0 := by
  rw [dutyOf, h]
  exact if_neg (hlin ▸ Nat.lt_irrefl 0)

theorem dutyOf_zero {c : Config} (hg : gammaLawful c = true) (hw : 1 ≤ c.w) : dutyOf c 0 = 0 := by
  cases h : c.corrMode with
  | none => rw [dutyOf_of_none h, lin_zero]
  | strict => rw [dutyOf_of_strict h, lin_zero, corrB_zero hg hw]
  | modified => exact dutyOf_of_modified_of_zero h (lin_zero c)

theorem dutyOf_hundred {c : Config} (hg : gammaLawful c = true) (hw : 1 ≤ c.w) : dutyOf c 100 = c.w := by
  cases h : c.corrMode with
  | none => rw [dutyOf_of_none h, lin_hundred]
  | strict => rw [dutyOf_of_strict h, lin_hundred, corrB_width hg hw]
  | modified =>
    have hpos : 0 < lin c 100 := (lin_hundred c).symm ▸ hw
    rw [dutyOf_of_modified_of_pos h hpos, lin_hundred, corrB_width hg hw, max_eq_right hw]

/-- The duty does not decrease in the percent, in every mode: `lin` and `corrB` do not, and `modified` lifts a corrected
duty to 1 only where `lin` has left 0 (R267). -/
theorem dutyOf_mono {c : Config} (hg : gammaLawful c = true) (hw : 1 ≤ c.w) {p q : Nat} (hpq : p ≤ q) (hq : q ≤ 100) :
    dutyOf c p ≤ dutyOf c q := by
  have hlin := lin_mono c hpq
  have hcorr := corrB_mono hg hw hlin (lin_le c hq)
  cases h : c.corrMode with
  | none => rwa [dutyOf_of_none h, dutyOf_of_none h]
  | strict => rwa [dutyOf_of_strict h, dutyOf_of_strict h]
  | modified =>
    obtain hzero | hpos := Nat.eq_zero_or_pos (lin c p)
    · exact dutyOf_of_modified_of_zero h hzero ▸ Nat.zero_le _
    · rw [dutyOf_of_modified_of_pos h hpos, dutyOf_of_modified_of_pos h (hpos.trans_le hlin)]
      exact max_le_max_left 1 hcorr

/-- Settles O15: the ends, monotonicity and bound of the duty function, and the floor that `modified` puts under it. -/
theorem dutyFunctionProperties : Obligations.DutyFunctionProperties := by
  intro c hc
  have hconfig := configOK_iff.1 hc
  have hg := hconfig.gamma
  have hw : 1 ≤ c.w := Nat.le_of_succ_le hconfig.two_le_width
  exact ⟨dutyOf_zero hg hw, dutyOf_hundred hg hw, fun _ _ => dutyOf_mono hg hw, fun _ => dutyOf_le hw,
    fun _ _ hmodified hpos => dutyOf_of_modified_of_pos hmodified hpos ▸ le_max_left ..⟩

end Sys2Proof.Machine

/-! SUPPORT. Blanking at the two ends of the duty (R268): the thresholds of R144 and R145 with DUTY = 0 and DUTY = W. -/

namespace Sys2Proof.Machine

/-- With DUTY = 0 every column reaches the threshold of its bitplane (R144, R145). -/
theorem oeBit_duty_zero (c : Config) (t j x : Nat) : oeBit c t 0 j x = true := by
  rw [oeBit_iff, Nat.zero_div]
  omega

/-- With DUTY = W no column of the panel reaches the threshold of R144. -/
theorem oeBit_duty_width_of_coarse {c : Config} {t j x : Nat} (hx : x < c.w) (hj : j = 0 ∨ t < j) :
    oeBit c t c.w j x = true ↔ x = 0 ∨ x = c.w - 1 := by
  rw [oeBit_iff]
  omega

/-- With DUTY = W bitplanes 1 to `T` keep the threshold of R145. -/
theorem oeBit_duty_width_of_fine {c : Config} {t j x : Nat} (hlow : 1 ≤ j) (hhigh : j ≤ t) :
    oeBit c t c.w j x = true ↔ x = 0 ∨ x = c.w - 1 ∨ c.w >>> (t - j + 1) ≤ x := by
  rw [oeBit_iff, Nat.shiftRight_eq_div_pow]
  omega

/-- The OE signal of the base word of a lawful layout is the blanking of R144 to R146. -/
theorem getLsbD_baseWord_oe {c : Config} (h : layoutLawful c.layout = true) (t duty r j x : Nat) :
    (baseWord c t duty r j x).getLsbD c.layout.oe = oeBit c t duty j x :=
  Bool.eq_iff_iff.2 ((baseWordCarriesAddressBlankingAndLatch c t duty r j x h).1.trans (oeBit_iff c t duty j x).symm)

/-- Settles O17: the OE signal is `oeBit`, whose value at the two ends of the duty is known. -/
theorem blankingAtTheExtremes : Obligations.BlankingAtTheExtremes := by
  intro c t r j x hlayout hx
  simp only [getLsbD_baseWord_oe hlayout]
  exact ⟨oeBit_duty_zero c t j x, oeBit_duty_width_of_coarse hx, oeBit_duty_width_of_fine⟩

end Sys2Proof.Machine

/-! SUPPORT. The frame-level commands (44_frame_ops.md): each writes to every address of a list the byte that belongs
there, so only which addresses the list names matters, not their order. -/

namespace Sys2Proof.Machine

/-- Writing at each listed address, in the list's order, the byte that `v` gives it. -/
def writeBytes (v : Nat → Byte) (as : List Nat) (s : State) : State := as.foldl (fun u a => memWrite a (v a) u) s

theorem writeBytes_cons (v : Nat → Byte) (a : Nat) (as : List Nat) (s : State) :
    writeBytes v (a :: as) s = writeBytes v as (memWrite a (v a) s) := rfl

theorem writeBytes_append (v : Nat → Byte) (as bs : List Nat) (s : State) :
    writeBytes v (as ++ bs) s = writeBytes v bs (writeBytes v as s) := List.foldl_append

/-- Byte writes change host memory only (R16). -/
theorem writeBytes_eq (v : Nat → Byte) (as : List Nat) (s : State) :
    writeBytes v as s = { s with mem := (writeBytes v as s).mem } := by
  refine foldl_keeps (fun u : State => u = { s with mem := u.mem }) _ (fun u a hu => ?_) as s rfl
  rw [hu]
  rfl

@[simp] theorem writeBytes_cfg (v : Nat → Byte) (as : List Nat) (s : State) : (writeBytes v as s).cfg = s.cfg :=
  (congrArg State.cfg (writeBytes_eq v as s) :)

theorem memWf_writeBytes {s : State} (h : memWf s = true) (v : Nat → Byte) (as : List Nat) :
    memWf (writeBytes v as s) = true :=
  foldl_keeps (fun u => memWf u = true) _ (fun _ _ hu => memWf_memWrite hu _ _) as s h

/-- What the block reads of host memory after the writes. -/
theorem memRead_writeBytes {s : State} (h : memWf s = true) (v : Nat → Byte) (as : List Nat) (b : Nat) :
    memRead (writeBytes v as s) b = if b ∈ as then v b else memRead s b := by
  induction as generalizing s with
  | nil => simp [writeBytes]
  | cons a as ih =>
    rw [writeBytes_cons, ih (memWf_memWrite h a (v a)), memRead_memWrite h]
    by_cases hmem : b ∈ as
    · simp [hmem]
    · by_cases hb : b = a <;> simp [hmem, hb]

/-- Lists that name the same addresses leave the same state: canonical memories that read alike are one. -/
theorem writeBytes_congr {s : State} (h : memWf s = true) (v : Nat → Byte) {as bs : List Nat}
    (hmem : ∀ a, a ∈ as ↔ a ∈ bs) : writeBytes v as s = writeBytes v bs s := by
  have has := memWf_writeBytes h v as
  have hbs := memWf_writeBytes h v bs
  have hread (a : Nat) : memRead (writeBytes v as s) a = memRead (writeBytes v bs s) a := by
    rw [memRead_writeBytes h, memRead_writeBytes h, if_congr (hmem a) rfl rfl]
  simp only [memWf, memRead, writeBytes_cfg] at has hbs hread
  rw [writeBytes_eq v as, writeBytes_eq v bs, Memory.eq_of_read_eq has hbs hread]

/-- A loop whose every pass writes bytes writes all of them. The passes start from states that differ from the loop's
first in host memory alone. -/
theorem foldl_eq_writeBytes {α : Type} {s : State} {f : State → α → State} {v : Nat → Byte} {as : α → List Nat}
    (hf : ∀ m b, f { s with mem := m } b = writeBytes v (as b) { s with mem := m }) (l : List α) :
    l.foldl f s = writeBytes v (l.flatMap as) s := by
  suffices ∀ m, l.foldl f { s with mem := m } = writeBytes v (l.flatMap as) { s with mem := m } from this s.mem
  induction l with
  | nil => exact fun _ => rfl
  | cons b l ih =>
    intro m
    rw [List.foldl_cons, List.flatMap_cons, writeBytes_append, hf, writeBytes_eq v (as b)]
    exact ih _

/-! ## The addresses of the frame and the bytes that belong there -/

/-- The three bytes of pixel `(x, y)` of the caller's frame (R77). -/
def pixelAddresses (s : State) (x y : Nat) : List Nat := [fbyte s x y 0, fbyte s x y 1, fbyte s x y 2]

/-- The bytes of the caller's frame, in rising order (R77). -/
def frameAddresses (s : State) : List Nat := (List.range (frameBytes s.cfg)).map (s.frameBase.toNat + ·)

/-- The byte at address `a` of a frame of the one colour `p`: its channels follow one another from FRAME_BASE (R77). -/
def colourByte (s : State) (p : Rgb) (a : Nat) : Byte :=
  if (a - s.frameBase.toNat) % 3 = 0 then p.r else if (a - s.frameBase.toNat) % 3 = 1 then p.g else p.b

theorem colourByte_fbyte_zero (s : State) (p : Rgb) (x y : Nat) : colourByte s p (fbyte s x y 0) = p.r := by
  rw [colourByte, if_pos (by unfold fbyte; omega)]

theorem colourByte_fbyte_one (s : State) (p : Rgb) (x y : Nat) : colourByte s p (fbyte s x y 1) = p.g := by
  rw [colourByte, if_neg (by unfold fbyte; omega), if_pos (by unfold fbyte; omega)]

theorem colourByte_fbyte_two (s : State) (p : Rgb) (x y : Nat) : colourByte s p (fbyte s x y 2) = p.b := by
  rw [colourByte, if_neg (by unfold fbyte; omega), if_neg (by unfold fbyte; omega)]

theorem colourByte_black (s : State) : colourByte s ⟨0, 0, 0⟩ = fun _ => 0 := by
  funext a
  simp [colourByte]

theorem mem_pixelAddresses {s : State} {x y a : Nat} :
    a ∈ pixelAddresses s x y ↔ s.frameBase.toNat ≤ a ∧ (a - s.frameBase.toNat) / 3 = y * s.cfg.w + x := by
  simp only [pixelAddresses, fbyte, List.mem_cons, List.not_mem_nil, or_false]
  omega

theorem mem_frameAddresses {s : State} {a : Nat} :
    a ∈ frameAddresses s ↔ s.frameBase.toNat ≤ a ∧ a < s.frameBase.toNat + frameBytes s.cfg := by
  simp only [frameAddresses, List.mem_map, List.mem_range]
  exact ⟨by omega, fun h => ⟨a - s.frameBase.toNat, by omega, by omega⟩⟩

/-- Row by row, the pixels of the panel are numbered from 0 to `W * H - 1`. -/
theorem lt_mul_iff_exists_pixel {w h q : Nat} : q < w * h ↔ ∃ x y, x < w ∧ y < h ∧ q = y * w + x := by
  constructor
  · intro hq
    have hw : 0 < w := Nat.pos_of_mul_pos_right (Nat.zero_lt_of_lt hq)
    exact ⟨q % w, q / w, Nat.mod_lt q hw, Nat.div_lt_of_lt_mul hq, (Nat.div_add_mod' q w).symm⟩
  · rintro ⟨x, y, hx, hy, rfl⟩
    calc y * w + x < (y + 1) * w := by rw [Nat.succ_mul]; omega
      _ ≤ h * w := Nat.mul_le_mul_right w hy
      _ = w * h := Nat.mul_comm h w

/-- The frame's bytes are those of the panel's pixels (R77). -/
theorem mem_frameAddresses_iff_pixel {s : State} {a : Nat} :
    a ∈ frameAddresses s ↔ ∃ x y, x < s.cfg.w ∧ y < s.cfg.h ∧ a ∈ pixelAddresses s x y := by
  have hframe : a ∈ frameAddresses s ↔
      s.frameBase.toNat ≤ a ∧ (a - s.frameBase.toNat) / 3 < s.cfg.w * s.cfg.h := by
    rw [mem_frameAddresses, frameBytes]
    omega
  rw [hframe, lt_mul_iff_exists_pixel]
  simp only [mem_pixelAddresses]
  tauto

/-! ## The commands as byte writes -/

theorem writeCallerPixel_eq_writeBytes (x y : Nat) (p : Rgb) (s : State) :
    writeCallerPixel x y p s = writeBytes (colourByte s p) (pixelAddresses s x y) s := by
  simp only [pixelAddresses, writeBytes_cons, colourByte_fbyte_zero, colourByte_fbyte_one, colourByte_fbyte_two]
  rfl

/-- FFILL's two loops write every byte of the frame (R294). -/
theorem fillCallerFrame_eq_writeBytes (p : Rgb) {s : State} (h : memWf s = true) :
    fillCallerFrame p s = writeBytes (colourByte s p) (frameAddresses s) s := by
  have hrow (m : List Host.Cell) (y : Nat) :
      (List.range s.cfg.w).foldl (fun u x => writeCallerPixel x y p u) { s with mem := m } =
        writeBytes (colourByte s p) ((List.range s.cfg.w).flatMap (pixelAddresses s · y)) { s with mem := m } :=
    foldl_eq_writeBytes (fun _ x => writeCallerPixel_eq_writeBytes x y p _) _
  calc fillCallerFrame p s
    _ = writeBytes (colourByte s p)
          ((List.range s.cfg.h).flatMap fun y => (List.range s.cfg.w).flatMap (pixelAddresses s · y)) s :=
      foldl_eq_writeBytes hrow _
    _ = writeBytes (colourByte s p) (frameAddresses s) s := writeBytes_congr h _ fun a => by
      simp only [List.mem_flatMap, List.mem_range, mem_frameAddresses_iff_pixel]
      tauto

/-- FCLEAR's loop writes every byte of the frame (R296). -/
theorem clearCallerFrame_eq_writeBytes (s : State) :
    clearCallerFrame s = writeBytes (fun _ => 0) (frameAddresses s) s := by
  have hbyte (m : List Host.Cell) (k : Nat) :
      memWrite (s.frameBase.toNat + k) 0 { s with mem := m } =
        writeBytes (fun _ => 0) [s.frameBase.toNat + k] { s with mem := m } := rfl
  rw [frameAddresses, List.map_eq_flatMap]
  exact foldl_eq_writeBytes hbyte _

theorem exec_ffill_of_frameOK (p : Rgb) {s : State} (h : memWf s = true) (hframe : frameOK s = true) :
    exec (.ffill p) s = .next (writeBytes (colourByte s p) (frameAddresses s) s) :=
  (whenFrameOK_of_ok _ hframe).trans (congrArg _ (fillCallerFrame_eq_writeBytes p h))

theorem exec_fclear_of_frameOK {s : State} (hframe : frameOK s = true) :
    exec .fclear s = .next (writeBytes (fun _ => 0) (frameAddresses s) s) :=
  (whenFrameOK_of_ok _ hframe).trans (congrArg _ (clearCallerFrame_eq_writeBytes s))

theorem exec_fsetpixel_of_outside {x y : Nat} (p : Rgb) {s : State} (hframe : frameOK s = true)
    (hout : s.cfg.w ≤ x ∨ s.cfg.h ≤ y) : exec (.fsetpixel x y p) s = .next s :=
  (whenFrameOK_of_ok _ hframe).trans (if_pos (by simpa [outOfRange] using hout))

theorem exec_fsetpixel_of_inside {x y : Nat} (p : Rgb) {s : State} (hframe : frameOK s = true) (hx : x < s.cfg.w)
    (hy : y < s.cfg.h) : exec (.fsetpixel x y p) s = .next (writeCallerPixel x y p s) :=
  (whenFrameOK_of_ok _ hframe).trans (if_neg (by simp [outOfRange, hx, hy]))

/-- FSETPIXEL of one colour at listed pixels of the panel writes their bytes (R292). -/
theorem setCallerPixels_eq_writeBytes (p : Rgb) {s : State} (hframe : frameOK s = true) (ps : List (Nat × Nat))
    (hps : ∀ x y, (x, y) ∈ ps → x < s.cfg.w ∧ y < s.cfg.h) :
    setCallerPixels (fun _ _ => p) ps s =
      .next (writeBytes (colourByte s p) (ps.flatMap fun q => pixelAddresses s q.1 q.2) s) := by
  induction ps generalizing s with
  | nil => rfl
  | cons q ps ih =>
    obtain ⟨hx, hy⟩ := hps q.1 q.2 List.mem_cons_self
    rw [setCallerPixels, exec_fsetpixel_of_inside p hframe hx hy, List.flatMap_cons, writeBytes_append,
      ← writeCallerPixel_eq_writeBytes]
    exact ih ((frameOK_congr rfl rfl).trans hframe) fun x y hmem => hps x y (List.mem_cons_of_mem q hmem)

/-! ## The statements -/

/-- Settles O52: both sides write every byte of the frame, and the order of the writes leaves no trace. -/
theorem ffillEqualsFsetpixelEverywhere : Obligations.FfillEqualsFsetpixelEverywhere := by
  intro s p ps hwf hframe hps
  refine ⟨_, exec_ffill_of_frameOK p hwf hframe, ?_⟩
  rw [setCallerPixels_eq_writeBytes p hframe ps fun x y => (hps x y).1]
  refine congrArg _ (writeBytes_congr hwf _ fun a => ?_)
  simp only [List.mem_flatMap, Prod.exists, mem_frameAddresses_iff_pixel, hps _ _, and_assoc]

/-- Settles O50: the three writes go to three different addresses, and outside the panel there is none. -/
theorem fsetpixelWritesThreeBytes : Obligations.FsetpixelWritesThreeBytes := by
  intro s x y p hwf hinside
  have hframe : frameOK s = true := frameOK_iff.2 hinside
  refine ⟨exec_fsetpixel_of_outside p hframe, fun hx hy =>
    ⟨_, exec_fsetpixel_of_inside p hframe hx hy, fun a => ?_⟩⟩
  change memRead (writeCallerPixel x y p s) a = _
  have hred := memWf_memWrite hwf (fbyte s x y 0) p.r
  have hgreen := memWf_memWrite hred (fbyte s x y 1) p.g
  rw [writeCallerPixel, memRead_memWrite hgreen, memRead_memWrite hred, memRead_memWrite hwf]
  simp only [fbyte]
  grind

/-- Settles O51: a byte of a pixel is a byte of the frame, which the fill has written. -/
theorem ffillWritesEveryPixel : Obligations.FfillWritesEveryPixel := by
  intro s p hwf hinside
  refine ⟨_, (exec_ffill_of_frameOK p hwf (frameOK_iff.2 hinside)).trans (congrArg _ (writeBytes_eq ..)), ?_⟩
  rw [← writeBytes_eq]
  refine ⟨fun x y hx hy => ?_, fun a ha => ?_⟩
  · have hread {a : Nat} (ha : a ∈ pixelAddresses s x y) :
        memRead (writeBytes (colourByte s p) (frameAddresses s) s) a = colourByte s p a := by
      rw [memRead_writeBytes hwf, if_pos (mem_frameAddresses_iff_pixel.2 ⟨x, y, hx, hy, ha⟩)]
    exact ⟨(hread (by simp [pixelAddresses, fbyte])).trans (colourByte_fbyte_zero s p x y),
      (hread (by simp [pixelAddresses, fbyte])).trans (colourByte_fbyte_one s p x y),
      (hread (by simp [pixelAddresses, fbyte])).trans (colourByte_fbyte_two s p x y)⟩
  · rw [memRead_writeBytes hwf, if_neg fun hmem => ?_]
    obtain ⟨hlow, hhigh⟩ := mem_frameAddresses.1 hmem
    rw [frameBytes] at hhigh
    omega

/-- Settles O53: the loop's addresses are those of the frame. -/
theorem fclearZeroesTheFrame : Obligations.FclearZeroesTheFrame := by
  intro s hwf hinside
  refine ⟨_, (exec_fclear_of_frameOK (frameOK_iff.2 hinside)).trans (congrArg _ (writeBytes_eq ..)), fun a => ?_⟩
  rw [← writeBytes_eq, memRead_writeBytes hwf]
  exact if_congr mem_frameAddresses rfl rfl

/-- Settles O54: in a frame inside HOST_MEM both write 0 to every byte of it, and elsewhere both raise F_BAD_ADDR. -/
theorem fclearIsBlackFfill : Obligations.FclearIsBlackFfill := by
  intro s hwf
  cases hframe : frameOK s with
  | true => rw [exec_fclear_of_frameOK hframe, exec_ffill_of_frameOK _ hwf hframe, colourByte_black]
  | false => exact (whenFrameOK_of_not_ok _ hframe).trans (whenFrameOK_of_not_ok _ hframe).symm

/-- Settles O49: the command is the one assignment of R290. -/
theorem setframebaseStoresTheAddress : Obligations.SetframebaseStoresTheAddress := fun _ _ => rfl

end Sys2Proof.Machine

/-! SUPPORT. The replay agent's word step (R311, R313): at rest while it is stopped, and otherwise the word it emits and
the position it goes to. -/

namespace Sys2Proof.Machine

theorem replayStep_of_stopped {s : State} (h : s.dmaRun = false) : replayStep s = .next s :=
  if_neg (Bool.eq_false_iff.1 h)

/-- A running agent whose descriptor and word exist emits the word and moves on. -/
theorem replayStep_of_word {s : State} {ds : DescStore} {d : Descriptor} {f : FrameStore} {w : Word}
    (hrun : s.dmaRun = true) (hds : s.ds = some ds) (hd : (chainOf ds s.cur)[s.dpos.toNat]? = some d)
    (hf : s.fs = some f) (hw : fsRead f d.buf (d.off + (s.wpos.toNat ^^^ 1)) = some w) :
    replayStep s = .next (advance d (emit w s)) := by
  simp only [replayStep, hrun, hds, hf, Option.bind_some, hd, hw, if_true]

/-- Settles O44: the word is emitted, and the position moves by the three cases of `advance`. -/
theorem replayStepMovesOneWord : Obligations.ReplayStepMovesOneWord := by
  intro s ds d f w hrun hds hd hf hw
  have hstep : turnStep .replay s = .next (advance d (emit w s)) := replayStep_of_word hrun hds hd hf hw
  rw [hstep]
  refine ⟨fun hinside => ?_, fun hend heof => ?_, fun hend heof => ?_⟩
  · exact congrArg _ (advance_of_inside (s := emit w s) hinside)
  · exact congrArg _ (advance_of_descriptor_end (s := emit w s) hend heof)
  · exact congrArg _ (advance_of_chain_end (s := emit w s) hend heof)

/-- Settles O45: a stopped agent has no step, and SHUTDOWN of a live block stops it. -/
theorem replayRestsWhileStopped : Obligations.ReplayRestsWhileStopped := by
  refine ⟨fun _ => replayStep_of_stopped, fun s s' hlive h => ?_⟩
  cases (exec_shutdown_of_live hlive).symm.trans h
  exact replayStep_of_stopped rfl

end Sys2Proof.Machine

/-! SUPPORT. The words that descriptors name in emission order (R313, R314), and that those of a whole chain are the
words of a pass (R193, R319). -/

namespace Sys2Proof.Machine

/-- The word the agent emits at position `i` of descriptor `d` (R313); a word that does not exist reads as 0 here. -/
def descriptorWord (s : State) (d : Descriptor) (i : Nat) : Word :=
  (s.fs.bind fun f => fsRead f d.buf (d.off + (i ^^^ 1))).getD 0

/-- The words of a descriptor's run, in emission order. -/
def descriptorWords (s : State) (d : Descriptor) : List Word := (List.range (d.len / 2)).map (descriptorWord s d)

/-- The words of bitplane `j` of row `r` in buffer `b`, columns ascending. -/
def planeWords (s : State) (b : BufIdx) (r j : Nat) : List Word :=
  (List.range s.cfg.w).map fun x => columnWord s b r j x

@[simp] theorem descriptorWords_length (s : State) (d : Descriptor) : (descriptorWords s d).length = d.len / 2 := by
  simp [descriptorWords]

@[simp] theorem planeWords_length (s : State) (b : BufIdx) (r j : Nat) : (planeWords s b r j).length = s.cfg.w := by
  simp [planeWords]

/-- In a live block the word of a descriptor's position exists. -/
theorem State.LiveInv.fsRead_descriptorWord {s : State} (h : s.LiveInv) {b : BufIdx} {k n : Nat} {d : Descriptor}
    (hd : (buildChain s.cfg s.t.toNat b)[k]? = some d) (hn : n < d.len / 2) :
    ∃ f, s.fs = some f ∧ fsRead f d.buf (d.off + (n ^^^ 1)) = some (descriptorWord s d n) := by
  obtain ⟨f, hf, hwhole⟩ := h.whole
  have hword : d.off + (n ^^^ 1) < (bufferOf f d.buf).length :=
    (bufferOK_iff.1 (hwhole d.buf)).1 ▸ descriptorWord_lt h.config s.t.isLt hd hn
  exact ⟨f, hf, by simp [descriptorWord, fsRead, hf, hword]⟩

theorem columnWord_eq_getD (s : State) (b : BufIdx) (r j x : Nat) :
    columnWord s b r j x = (s.fs.bind fun f => fsRead f b (widx s.cfg r j (slot x))).getD 0 := by
  unfold columnWord
  cases s.fs.bind fun f => fsRead f b (widx s.cfg r j (slot x)) <;> rfl

/-- The slots of one bitplane after another, for an even width (R147). -/
theorem slot_mul_add {w : Nat} (hw : w % 2 = 0) (p x : Nat) : slot (p * w + x) = p * w + slot x := by
  have heven : p * w % 2 = 0 := by rw [Nat.mul_mod, hw, Nat.mul_zero]
  rw [slot_eq, slot_eq]
  split <;> split <;> omega

/-- Position `x` of the `p`-th bitplane of a run leaves the word of column `x` (R314). -/
theorem descriptorWord_planesDescriptor {s : State} (hw : s.cfg.w % 2 = 0) (b : BufIdx) (r first planes p x : Nat) :
    descriptorWord s (planesDescriptor s.cfg b r first planes) (p * s.cfg.w + x) =
      columnWord s b r (first + p) x := by
  have hindex : widx s.cfg r first 0 + slot (p * s.cfg.w + x) = widx s.cfg r (first + p) (slot x) := by
    rw [slot_mul_add hw]
    unfold widx
    ring
  rw [columnWord_eq_getD, ← hindex]
  rfl

/-- A list over `n * m` positions is made of `n` parts of `m` positions each. -/
theorem map_range_mul {α : Type} (g : Nat → α) (n m : Nat) :
    (List.range (n * m)).map g = (List.range n).flatMap fun p => (List.range m).map fun x => g (p * m + x) := by
  induction n with
  | zero => simp
  | succ n ih => simp [Nat.succ_mul, List.range_add, List.range_succ, ih, Function.comp_def]

/-- A descriptor's run is its bitplanes, each in column order (R190, R314). -/
theorem descriptorWords_planesDescriptor {s : State} (hw : s.cfg.w % 2 = 0) (b : BufIdx) (r first planes : Nat) :
    descriptorWords s (planesDescriptor s.cfg b r first planes) =
      (List.range' first planes).flatMap (planeWords s b r) := by
  have hlen : (planesDescriptor s.cfg b r first planes).len / 2 = planes * s.cfg.w := Nat.mul_div_cancel _ (by decide)
  rw [descriptorWords, hlen, map_range_mul, List.range'_eq_map_range, List.flatMap_map]
  simp only [descriptorWord_planesDescriptor hw, planeWords]

/-- The runs of a row's descriptors are the row's bitplane sequence (R190, R193). -/
theorem flatMap_descriptorWords_rowDescriptors {s : State} (hw : s.cfg.w % 2 = 0) (b : BufIdx) (t r : Nat) :
    (rowDescriptors s.cfg t b r).flatMap (descriptorWords s) = (planeSequence t).flatMap (planeWords s b r) := by
  simp only [rowDescriptors, planeSequence, List.flatMap_cons, List.flatMap_append, List.flatMap_assoc,
    descriptorWords_planesDescriptor hw, List.range_eq_range']
  congr 1
  refine List.flatMap_congr fun k _ => ?_
  rw [← List.flatMap_id, List.flatMap_assoc, List.flatMap_replicate, List.flatMap_replicate,
    descriptorWords_planesDescriptor hw]
  rfl

/-- A pass is each row's bitplane sequence, plane by plane (R319). -/
theorem passWords_eq (s : State) (b : BufIdx) :
    passWords s b = (List.range (rows s.cfg)).flatMap fun r =>
      (planeSequence s.t.toNat).flatMap (planeWords s b r) := rfl

/-- The runs of a whole chain are the words of its pass (R193, R319). -/
theorem flatMap_descriptorWords_buildChain {s : State} (hw : s.cfg.w % 2 = 0) (b : BufIdx) :
    (buildChain s.cfg s.t.toNat b).flatMap (descriptorWords s) = passWords s b := by
  rw [buildChain, markEnd_flatMap _ fun _ => rfl, List.flatMap_assoc, passWords_eq]
  simp only [flatMap_descriptorWords_rowDescriptors hw]

/-- The runs of the first `m` descriptors of the chain being replayed. -/
def chainWords (s : State) (m : Nat) : List Word :=
  ((buildChain s.cfg s.t.toNat s.cur).take m).flatMap (descriptorWords s)

theorem chainWords_succ {s : State} {m : Nat} {d : Descriptor} (hd : (buildChain s.cfg s.t.toNat s.cur)[m]? = some d) :
    chainWords s (m + 1) = chainWords s m ++ descriptorWords s d := by
  simp [chainWords, List.take_add_one, hd]

theorem chainWords_eq_passWords {s : State} (hw : s.cfg.w % 2 = 0) :
    chainWords s (buildChain s.cfg s.t.toNat s.cur).length = passWords s s.cur := by
  rw [chainWords, List.take_length, flatMap_descriptorWords_buildChain hw]

/-- A row's sequence holds `T + 1` bitplanes and the sum of R193 (R319). -/
theorem planeSequence_length {t : Nat} (ht : t < 8) :
    (planeSequence t).length = t + 1 + 2 ^ (depth - t) - (depth - t) - 1 := by
  have hsum := sum_range_two_pow_mul_sub (7 - t)
  have hterm (k : Nat) : 8 - (t + 1 + k) = 7 - t - k := by omega
  rw [show 7 - t + 1 = 8 - t by omega] at hsum
  simp only [planeSequence, depth_eq, List.length_append, List.length_range, List.length_flatMap, List.length_flatten,
    List.map_replicate, List.length_range', List.sum_replicate, smul_eq_mul, hterm, show 8 - 1 - t = 7 - t by omega]
  omega

theorem passWords_length (s : State) (b : BufIdx) : (passWords s b).length = passLength s := by
  rw [passWords_eq, passLength, ← planeSequence_length s.t.isLt]
  simp only [List.length_flatMap, planeWords_length, List.map_const', List.sum_replicate, List.length_range,
    smul_eq_mul]
  ring

end Sys2Proof.Machine

/-! SUPPORT. A pass of the replay agent with no other turn between (R316, R319): word by word through a descriptor, and
descriptor by descriptor through the chain. -/

namespace Sys2Proof.Machine

/-- `n` replay turns lead from `s` to `u`. -/
def ReplaysTo (n : Nat) (s u : State) : Prop := runTurns (List.replicate n .replay) s = .next u

theorem ReplaysTo.refl (s : State) : ReplaysTo 0 s s := rfl

theorem ReplaysTo.trans {m n : Nat} {s u v : State} (h : ReplaysTo m s u) (h' : ReplaysTo n u v) :
    ReplaysTo (m + n) s v := by
  rw [ReplaysTo, List.replicate_add, runTurns_append, h]
  exact h'

theorem ReplaysTo.of_step {s u : State} (h : replayStep s = .next u) : ReplaysTo 1 s u :=
  runTurns_cons_eq_next.2 ⟨u, h, rfl⟩

/-- State `s` with the agent at word `n` of descriptor `k` of its chain, and the words `ws` emitted since. -/
def midPass (s : State) (k n : Nat) (ws : List Word) : State :=
  { s with dpos := BitVec.ofNat 16 k, wpos := BitVec.ofNat 16 n, out := s.out ++ ws }

theorem withPosition_eq_self {s : State} {dpos wpos : BitVec 16} (hdpos : s.dpos = dpos) (hwpos : s.wpos = wpos) :
    { s with dpos := dpos, wpos := wpos } = s := by
  subst hdpos hwpos
  rfl

theorem midPass_start {s : State} (hdpos : s.dpos = 0) (hwpos : s.wpos = 0) : midPass s 0 0 [] = s := by
  rw [midPass, List.append_nil]
  exact withPosition_eq_self hdpos hwpos

/-- The end of a pass that began at the start of its chain leaves the replay position as it was (R316). -/
theorem passEnd_midPass {s : State} (hdpos : s.dpos = 0) (hwpos : s.wpos = 0) (k n : Nat) (ws : List Word) :
    passEnd { midPass s k n ws with wpos := 0 } =
      { s with out := s.out ++ ws, cur := linkOf s s.cur, done := true } := by
  calc passEnd { midPass s k n ws with wpos := 0 }
    _ = { s with dpos := 0, wpos := 0, out := s.out ++ ws, cur := linkOf s s.cur, done := true } := rfl
    _ = { s with
          dpos := s.dpos, wpos := s.wpos, out := s.out ++ ws, cur := linkOf s s.cur, done := true } := by
      rw [hdpos, hwpos]

theorem midPass_dpos_toNat {k : Nat} (hk : k < 2 ^ 16) (s : State) (n : Nat) (ws : List Word) :
    (midPass s k n ws).dpos.toNat = k := (BitVec.toNat_ofNat ..).trans (Nat.mod_eq_of_lt hk)

theorem midPass_wpos_toNat {n : Nat} (hn : n < 2 ^ 16) (s : State) (k : Nat) (ws : List Word) :
    (midPass s k n ws).wpos.toNat = n := (BitVec.toNat_ofNat ..).trans (Nat.mod_eq_of_lt hn)

theorem advance_midPass_inside {n : Nat} {d : Descriptor} (hfit : n < 2 ^ 16) (hn : n + 1 ≠ d.len / 2) (s : State)
    (k : Nat) (ws : List Word) : advance d (midPass s k n ws) = midPass s k (n + 1) ws := by
  rw [advance_of_inside (by rwa [midPass_wpos_toNat hfit]), midPass, midPass, BitVec.ofNat_add]
  rfl

theorem advance_midPass_descriptor_end {n : Nat} {d : Descriptor} (hfit : n < 2 ^ 16) (hn : n + 1 = d.len / 2)
    (heof : d.eof = false) (s : State) (k : Nat) (ws : List Word) :
    advance d (midPass s k n ws) = midPass s (k + 1) 0 ws := by
  rw [advance_of_descriptor_end (by rwa [midPass_wpos_toNat hfit]) heof, midPass, midPass, BitVec.ofNat_add]
  rfl

theorem advance_midPass_chain_end {n : Nat} {d : Descriptor} (hfit : n < 2 ^ 16) (hn : n + 1 = d.len / 2)
    (heof : d.eof = true) (s : State) (k : Nat) (ws : List Word) :
    advance d (midPass s k n ws) = passEnd { midPass s k n ws with wpos := 0 } :=
  advance_of_chain_end (by rwa [midPass_wpos_toNat hfit]) heof

section
variable {s : State} (h : s.LiveInv)
include h

section
variable {k : Nat} {d : Descriptor} (hd : (buildChain s.cfg s.t.toNat s.cur)[k]? = some d)
include hd

theorem replayStep_midPass {n : Nat} (hn : n < d.len / 2) (ws : List Word) :
    replayStep (midPass s k n ws) = .next (advance d (midPass s k n (ws ++ [descriptorWord s d n]))) := by
  obtain ⟨f, hf, hw⟩ := h.fsRead_descriptorWord hd hn
  have hk := (List.getElem?_eq_some_iff.1 hd).1
  rw [buildChain_length] at hk
  have hdpos := midPass_dpos_toNat (hk.trans (chainLength_bounds h.config s.t.isLt).2) s n ws
  have hwpos := midPass_wpos_toNat (hn.trans (descriptorWords_bounds h.config s.t.isLt hd).2) s k ws
  have hstep := replayStep_of_word (s := midPass s k n ws) h.running h.chains
    (by rw [hdpos, chainOf_buildChains]; exact hd) hf (by rw [hwpos]; exact hw)
  rw [hstep, emit, midPass, midPass, ← List.append_assoc]

/-- The turns before the last word of a descriptor: each emits its word and stays in the descriptor. -/
theorem replaysTo_inside {n : Nat} (hn : n < d.len / 2) (ws : List Word) :
    ReplaysTo n (midPass s k 0 ws) (midPass s k n (ws ++ (List.range n).map (descriptorWord s d))) := by
  induction n with
  | zero =>
    rw [List.range_zero, List.map_nil, List.append_nil]
    exact .refl _
  | succ n ih =>
    have hbound := (descriptorWords_bounds h.config s.t.isLt hd).2
    have hstep := replayStep_midPass h hd (n := n) (by omega) (ws ++ (List.range n).map (descriptorWord s d))
    rw [advance_midPass_inside (by omega) (by omega)] at hstep
    rw [List.range_succ, List.map_append, ← List.append_assoc]
    exact (ih (by omega)).trans (.of_step hstep)

/-- A descriptor's turns emit its words and leave it after the last one. -/
theorem replaysTo_end_of_descriptor (ws : List Word) :
    ∃ n, n + 1 = d.len / 2 ∧ n < 2 ^ 16 ∧
      ReplaysTo (descriptorWords s d).length (midPass s k 0 ws)
        (advance d (midPass s k n (ws ++ descriptorWords s d))) := by
  obtain ⟨hpos, hbound⟩ := descriptorWords_bounds h.config s.t.isLt hd
  obtain ⟨n, hn⟩ := Nat.exists_eq_succ_of_ne_zero hpos.ne'
  refine ⟨n, hn.symm, by omega, ?_⟩
  have hstep := replayStep_midPass h hd (n := n) (by omega) (ws ++ (List.range n).map (descriptorWord s d))
  rw [descriptorWords_length, descriptorWords, hn, List.range_succ, List.map_append, ← List.append_assoc]
  exact (replaysTo_inside h hd (by omega) ws).trans (.of_step hstep)

/-- The end mark stands on the last descriptor of the chain alone (R191). -/
theorem eof_iff_last : d.eof = true ↔ k + 1 = (buildChain s.cfg s.t.toNat s.cur).length := by
  have hwidth := (configOK_iff.1 h.config).two_le_width
  rw [buildChain_length]
  exact (buildChain_shape (Nat.zero_lt_of_lt hwidth) s.t.isLt hd).2.2

end

/-- The turns of the first `m` descriptors, short of the whole chain, lead to the start of descriptor `m`. -/
theorem replaysTo_descriptor {m : Nat} (hm : m < (buildChain s.cfg s.t.toNat s.cur).length) :
    ReplaysTo (chainWords s m).length (midPass s 0 0 []) (midPass s m 0 (chainWords s m)) := by
  induction m with
  | zero => exact .refl _
  | succ m ih =>
    have hd := List.getElem?_eq_getElem (Nat.lt_of_succ_lt hm)
    have heof := Bool.eq_false_iff.2 (mt (eof_iff_last h hd).1 hm.ne)
    obtain ⟨n, hn, hfit, hrun⟩ := replaysTo_end_of_descriptor h hd (chainWords s m)
    rw [advance_midPass_descriptor_end hfit hn heof] at hrun
    rw [chainWords_succ hd, List.length_append]
    exact (ih (Nat.lt_of_succ_lt hm)).trans hrun

/-- The turns of the whole chain emit the words of a pass and end it (R316, R319). -/
theorem replaysTo_passEnd (hdpos : s.dpos = 0) (hwpos : s.wpos = 0) :
    ReplaysTo (passWords s s.cur).length s
      { s with out := s.out ++ passWords s s.cur, cur := linkOf s s.cur, done := true } := by
  have hpos : 0 < (buildChain s.cfg s.t.toNat s.cur).length :=
    buildChain_length .. ▸ (chainLength_bounds h.config s.t.isLt).1
  obtain ⟨m, hlast⟩ := Nat.exists_eq_succ_of_ne_zero hpos.ne'
  have hm : m < (buildChain s.cfg s.t.toNat s.cur).length := hlast ▸ Nat.lt_succ_self m
  obtain ⟨d, hd⟩ : ∃ d, (buildChain s.cfg s.t.toNat s.cur)[m]? = some d := ⟨_, List.getElem?_eq_getElem hm⟩
  have hwords : passWords s s.cur = chainWords s m ++ descriptorWords s d := by
    rw [← chainWords_succ hd, ← chainWords_eq_passWords (configOK_iff.1 h.config).width_even, hlast]
  have hstart := replaysTo_descriptor h hm
  obtain ⟨n, hn, hfit, hrun⟩ := replaysTo_end_of_descriptor h hd (chainWords s m)
  rw [midPass_start hdpos hwpos] at hstart
  rw [advance_midPass_chain_end hfit hn ((eof_iff_last h hd).2 hlast.symm), passEnd_midPass hdpos hwpos] at hrun
  rw [hwords, List.length_append]
  exact hstart.trans hrun

end

/-- Settles O46: the number of the words of R319, and the run through the whole chain. -/
theorem aPassEmitsTheWholeFrame : Obligations.APassEmitsTheWholeFrame := by
  intro s hinv hlive hdpos hwpos
  refine ⟨passWords_length s s.cur, ?_⟩
  rw [← passWords_length s s.cur]
  exact replaysTo_passEnd (hinv.whenLive hlive) hdpos hwpos

end Sys2Proof.Machine

/-! SUPPORT. The block's exceptions (60_exceptions.md): which fault each command raises where its test fails, and that no
turn but power-on reset loses a fault. -/

namespace Sys2Proof.Machine

/-- One byte outside HOST_MEM is enough to fail the frame test (R346). -/
theorem frameOK_eq_false_of_byte_outside {s : State} {k : Nat} (hk : k < frameBytes s.cfg)
    (houtside : inHostMem s.cfg (s.frameBase.toNat + k) = false) : frameOK s = false :=
  Bool.eq_false_iff.2 fun hframe => Bool.eq_false_iff.1 houtside (frameOK_iff.1 hframe k hk)

/-- Settles O10: the outside byte fails the frame test, which stands first, or after a LIVE test that passes. -/
theorem badFrameRaisesBadAddr : Obligations.BadFrameRaisesBadAddr := by
  intro s k hk houtside
  have hframe : frameOK s = false := frameOK_eq_false_of_byte_outside hk houtside
  refine ⟨?fsetpixel, ?ffill, ?fclear, fun hlive => ⟨?encodeframe, ?fupdate⟩⟩
  case fsetpixel => exact fun _ _ _ => whenFrameOK_of_not_ok _ hframe
  case ffill => exact fun _ => whenFrameOK_of_not_ok _ hframe
  case fclear => exact whenFrameOK_of_not_ok _ hframe
  case encodeframe => exact (whenLive_of_live _ hlive).trans (whenFrameOK_of_not_ok _ hframe)
  case fupdate => exact (whenLive_of_live _ hlive).trans (whenFrameOK_of_not_ok _ hframe)

/-- A fault bit that was set before a command word is still set after it (R351). -/
theorem KeepsFaultOrRaises.getLsbD_fault {s s' : State} (h : KeepsFaultOrRaises s s') {i : Nat}
    (hset : s.fault.getLsbD i = true) : s'.fault.getLsbD i = true := by
  rcases h with hkept | ⟨f, rfl⟩
  · rw [hkept, hset]
  · rw [raiseFault_fault, BitVec.getLsbD_or, hset, Bool.true_or]

/-- The wait step raises no fault bit and clears none (R224, R226). -/
theorem waitStep_fault {s s' : State} (h : waitStep s = .next s') : s'.fault = s.fault := by
  rcases waitStep_eq_next h with ⟨-, rfl⟩ | ⟨-, -, rfl⟩ | ⟨-, -, hfinish⟩
  · rfl
  · rfl
  · obtain ⟨-, u, hrender, rfl⟩ := finishFupdate_eq_next hfinish
    obtain ⟨f, -, rfl⟩ := renderTarget_eq_next hrender
    rfl

@[simp] theorem advance_fault (d : Descriptor) (s : State) : (advance d s).fault = s.fault :=
  (congrArg State.fault (advance_eq d s).1 :)

/-- The replay agent has no part in FAULT (R313, R316). -/
theorem replayStep_fault {s s' : State} (h : replayStep s = .next s') : s'.fault = s.fault := by
  rcases replayStep_eq_next h with ⟨-, rfl⟩ | ⟨-, ds, d, f, w, -, -, -, -, rfl⟩
  · rfl
  · rw [advance_fault, emit_fault]

/-- Settles O11: a command word keeps FAULT or adds one bit to it, the wait step and the replay agent leave it as it is,
and power-on reset writes 0. -/
theorem faultBitsAccumulate : Obligations.FaultBitsAccumulate := by
  refine ⟨fun turn s s' hturn h i hset => ?_, fun s s' h => ?_⟩
  · cases turn with
    | command w => exact (presentCommand_keepsFaultOrRaises h).getLsbD_fault hset
    | wait => rw [waitStep_fault h, hset]
    | replay => rw [replayStep_fault h, hset]
    | powerOn => exact absurd rfl hturn
  · cases h
    exact powerOn_fault s

/-- Settles O7: both opcodes decode to a command that raises F_ILLEGAL with no test before it, and a wait rejects the
word undecoded. -/
theorem reservedOpcodesRaiseIllegal : Obligations.ReservedOpcodesRaiseIllegal := by
  refine ⟨fun s => ⟨rfl, rfl⟩, fun w s hopc => ⟨fun hidle => ?_, presentCommand_of_waiting w⟩⟩
  rw [presentCommand_of_idle w hidle]
  rcases hopc with hopc | hopc
  · rw [decode_eq_reservedE hopc]
    rfl
  · rw [decode_eq_reservedF hopc]
    rfl

/-- Settles O8: the opcode alone selects NOP, which answers the state it is given. -/
theorem nopChangesNothing : Obligations.NopChangesNothing := by
  refine ⟨fun s => rfl, fun w s hopc => ⟨fun hidle => ?_, presentCommand_of_waiting w⟩⟩
  rw [presentCommand_of_idle w hidle, decode_eq_nop hopc]
  rfl

/-- Settles O9: each of these commands begins with the LIVE test, before it reads an operand or the caller's frame. -/
theorem commandsNeedingLiveRaiseNotInit : Obligations.CommandsNeedingLiveRaiseNotInit := by
  intro s hdead
  have hraise (body : Result) : whenLive s body = .next (raiseFault .notInit s) := whenLive_of_not_live body hdead
  exact ⟨fun _ => hraise _, hraise _, fun _ _ _ => hraise _, fun _ => hraise _, hraise _, hraise _, hraise _, hraise _⟩

end Sys2Proof.Machine

/-! SUPPORT. The tear record (R392): HAZARD changes only where a command or FUPDATE's second part has written a word of
the write target, and in an invariant state the agent owns that target just while it replays it (R393). -/

namespace Sys2Proof.Machine

/-- The commands that write a word of the write target; SETPIXEL does so at a pixel of the panel only (R151, R155). -/
def WritesTarget (c : Config) (i : Instr) : Prop :=
  (∃ x y p, i = .setpixel x y p ∧ x < c.w ∧ y < c.h) ∨ (∃ p, i = .fill p) ∨ i = .encodeframe

/-- From `s` to `s'` HAZARD is as before, or `writes` holds and HAZARD is the tear record of that write (R392). -/
def HazardByWriting (writes : Prop) (s s' : State) : Prop :=
  s'.hazard = s.hazard ∨ (writes ∧ s'.hazard = (s.hazard || hwOwns s s.widx))

theorem HazardByWriting.of_next {writes : Prop} {s s' u : State} (h : (.next u : Result) = .next s')
    (hu : u.hazard = s.hazard) : HazardByWriting writes s s' := by
  cases h
  exact .inl hu

theorem HazardByWriting.imp {writes writes' : Prop} {s s' : State} (h : HazardByWriting writes s s')
    (himp : writes → writes') : HazardByWriting writes' s s' :=
  h.imp_right fun ⟨hwrites, hhazard⟩ => ⟨himp hwrites, hhazard⟩

/-- Where HAZARD has risen, the agent owned the write target. -/
theorem HazardByWriting.of_rise {writes : Prop} {s s' : State} (h : HazardByWriting writes s s')
    (hclear : s.hazard = false) (hset : s'.hazard = true) : hwOwns s s.widx = true ∧ writes := by
  rcases h with hkept | ⟨hwrites, hrecord⟩
  · exact absurd (hset.symm.trans (hkept.trans hclear)) (by decide)
  · rw [hset, hclear, Bool.false_or] at hrecord
    exact ⟨hrecord.symm, hwrites⟩

theorem whenLive_hazardByWriting {writes : Prop} {s s' : State} {body : Result} (h : whenLive s body = .next s')
    (hbody : s.live = true → body = .next s' → HazardByWriting writes s s') : HazardByWriting writes s s' := by
  rcases whenLive_eq_next h with ⟨hlive, hb⟩ | ⟨-, rfl⟩
  · exact hbody hlive hb
  · exact .inl (raiseFault_hazard _ s)

theorem whenFrameOK_hazardByWriting {writes : Prop} {s s' : State} {body : Result}
    (h : whenFrameOK s body = .next s') (hbody : body = .next s' → HazardByWriting writes s s') :
    HazardByWriting writes s s' := by
  rcases whenFrameOK_eq_next h with ⟨-, hb⟩ | ⟨-, rfl⟩
  · exact hbody hb
  · exact .inl (raiseFault_hazard _ s)

theorem renderTarget_hazard {pixel : Nat → Nat → Rgb} {s s' : State} (h : renderTarget pixel s = .next s') :
    s'.hazard = (s.hazard || hwOwns s s.widx) := by
  obtain ⟨f, -, rfl⟩ := renderTarget_eq_next h
  rfl

theorem execInit_hazard {s s' : State} (h : execInit s = .next s') : s'.hazard = s.hazard := by
  unfold execInit runInit at h
  split at h
  · cases h
    exact raiseFault_hazard _ s
  · split at h
    · cases h
      exact dropDraw_hazard s
    · cases h
      exact dropDraw_hazard s

theorem execShutdown_hazard {s s' : State} (h : execShutdown s = .next s') : s'.hazard = s.hazard := by
  unfold execShutdown at h
  split at h
  · cases h
    exact stopLive_hazard s
  · cases h
    rfl

theorem outOfRange_eq_false_iff {c : Config} {x y : Nat} : outOfRange c x y = false ↔ x < c.w ∧ y < c.h := by
  simp [outOfRange]

theorem execSetpixel_hazardByWriting {x y : Nat} {p : Rgb} {s s' : State} (h : execSetpixel x y p s = .next s') :
    HazardByWriting (s.live = true ∧ x < s.cfg.w ∧ y < s.cfg.h) s s' := by
  rcases execSetpixel_eq_next h with ⟨-, rfl⟩ | ⟨-, -, rfl⟩ | ⟨hlive, hin, f, f', -, -, rfl⟩
  · exact .inl (raiseFault_hazard _ s)
  · exact .inl rfl
  · exact .inr ⟨⟨hlive, outOfRange_eq_false_iff.1 hin⟩, rfl⟩

theorem execFsetpixel_hazard {x y : Nat} {p : Rgb} {s s' : State} (h : execFsetpixel x y p s = .next s') :
    s'.hazard = s.hazard := by
  rcases whenFrameOK_eq_next h with ⟨-, hbody⟩ | ⟨-, rfl⟩
  · split at hbody
    · cases hbody
      rfl
    · cases hbody
      rfl
  · exact raiseFault_hazard _ s

@[simp] theorem fillCallerFrame_hazard (p : Rgb) (s : State) : (fillCallerFrame p s).hazard = s.hazard :=
  (congrArg State.hazard (fillCallerFrame_eq p s) :)

@[simp] theorem clearCallerFrame_hazard (s : State) : (clearCallerFrame s).hazard = s.hazard :=
  (congrArg State.hazard (clearCallerFrame_eq s) :)

/-- A command changes HAZARD only as the tear record of a write, made of a live block (R155, R392). -/
theorem exec_hazardByWriting {i : Instr} {s s' : State} (h : exec i s = .next s') :
    HazardByWriting (s.live = true ∧ WritesTarget s.cfg i) s s' := by
  cases i with
  | nop => exact .of_next h rfl
  | init => exact .inl (execInit_hazard h)
  | shutdown => exact .inl (execShutdown_hazard h)
  | setbright percent => exact whenLive_hazardByWriting h fun _ hb => .of_next hb rfl
  | getbright => exact whenLive_hazardByWriting h fun _ hb => .of_next hb rfl
  | setpixel x y colour =>
    exact (execSetpixel_hazardByWriting h).imp fun ⟨hlive, hx, hy⟩ => ⟨hlive, .inl ⟨x, y, colour, rfl, hx, hy⟩⟩
  | fill colour =>
    exact whenLive_hazardByWriting h fun hlive hb =>
      .inr ⟨⟨hlive, .inr (.inl ⟨colour, rfl⟩)⟩, renderTarget_hazard hb⟩
  | update => exact whenLive_hazardByWriting h fun _ hb => .of_next hb (flipAndAdvance_hazard s)
  | updateB => exact whenLive_hazardByWriting h fun _ hb => .of_next hb (flipAndAdvance_hazard s)
  | encodeframe =>
    exact whenLive_hazardByWriting h fun hlive hb => whenFrameOK_hazardByWriting hb fun hb =>
      .inr ⟨⟨hlive, .inr (.inr rfl)⟩, renderTarget_hazard hb⟩
  | fupdate =>
    exact whenLive_hazardByWriting h fun _ hb => whenFrameOK_hazardByWriting hb fun hb => .of_next hb rfl
  | setframebase addr => exact .of_next h rfl
  | fsetpixel x y colour => exact .inl (execFsetpixel_hazard h)
  | ffill colour => exact whenFrameOK_hazardByWriting h fun hb => .of_next hb (fillCallerFrame_hazard colour s)
  | fclear => exact whenFrameOK_hazardByWriting h fun hb => .of_next hb (clearCallerFrame_hazard s)
  | reservedE => exact .of_next h (raiseFault_hazard _ s)
  | reservedF => exact .of_next h (raiseFault_hazard _ s)

theorem presentCommand_hazardByWriting {w : CommandWord} {s s' : State} (h : presentCommand w s = .next s') :
    HazardByWriting (s.phase = .idle ∧ s.live = true ∧ WritesTarget s.cfg (decode w)) s s' := by
  rcases presentCommand_eq_next h with ⟨hidle, hexec⟩ | ⟨-, rfl⟩
  · exact (exec_hazardByWriting hexec).imp fun hwrites => ⟨hidle, hwrites⟩
  · exact .inl (raiseFault_hazard _ s)

/-- The wait step changes HAZARD only in FUPDATE's second part, which records the tear before its flip (R226; log
entry 18). -/
theorem waitStep_hazardByWriting {s s' : State} (h : waitStep s = .next s') :
    HazardByWriting (s.phase = .waitF ∧ s.done = true) s s' := by
  rcases waitStep_eq_next h with ⟨-, rfl⟩ | ⟨-, -, rfl⟩ | ⟨hwait, hdone, hfinish⟩
  · exact .inl rfl
  · exact .inl rfl
  · obtain ⟨-, u, hrender, rfl⟩ := finishFupdate_eq_next hfinish
    have hrecord := renderTarget_hazard hrender
    exact .inr ⟨⟨hwait, hdone⟩, hrecord⟩

@[simp] theorem advance_hazard (d : Descriptor) (s : State) : (advance d s).hazard = s.hazard :=
  (congrArg State.hazard (advance_eq d s).1 :)

theorem replayStep_hazard {s s' : State} (h : replayStep s = .next s') : s'.hazard = s.hazard := by
  rcases replayStep_eq_next h with ⟨-, rfl⟩ | ⟨-, ds, d, f, w, -, -, -, -, rfl⟩
  · rfl
  · rw [advance_hazard, emit_hazard]

/-- Only a running agent owns a buffer (R49). -/
theorem dmaRun_of_hwOwns {s : State} {b : BufIdx} (h : hwOwns s b = true) : s.dmaRun = true :=
  (Bool.and_eq_true_iff.1 h).1

/-- Settles O26: of the turns that can write HAZARD, power-on reset clears it, and the others record the tear of a
write. -/
theorem tearOnlyFromWritesToAnOwnedBuffer : Obligations.TearOnlyFromWritesToAnOwnedBuffer := by
  intro turn s s' h hclear hset
  cases turn with
  | command w =>
    obtain ⟨howns, hidle, hlive, hwrites⟩ := (presentCommand_hazardByWriting h).of_rise hclear hset
    exact ⟨howns, dmaRun_of_hwOwns howns, .inl ⟨w, rfl, hidle, hlive, hwrites⟩⟩
  | wait =>
    obtain ⟨howns, hwait, hdone⟩ := (waitStep_hazardByWriting h).of_rise hclear hset
    exact ⟨howns, dmaRun_of_hwOwns howns, .inr ⟨rfl, hwait, hdone⟩⟩
  | replay => exact absurd (hset.symm.trans ((replayStep_hazard h).trans hclear)) (by decide)
  | powerOn =>
    cases h
    exact absurd hset (by simp)

/-- Settles O27: the agent owns the chain it replays and the one that leads to, which is not the write target. -/
theorem targetOwnedExactlyWhileReplayed : Obligations.TargetOwnedExactlyWhileReplayed := by
  intro s h hlive
  rw [(h.whenLive hlive).hwOwns_iff, or_iff_left (bufIdx_add_one_ne s.widx).symm, eq_comm]

/-- Settles O56: `powerOn` names each register's value, and host memory and its power-on content are as before. -/
theorem powerOnResetKeepsHostMemory : Obligations.PowerOnResetKeepsHostMemory := fun s =>
  ⟨powerOn s, rfl, powerOn_live s, powerOn_dmaRun s, powerOn_fs s, powerOn_ds s, powerOn_out s, powerOn_fault s,
    powerOn_hazard s, fun _ => rfl⟩

end Sys2Proof.Machine

/-! SUPPORT. The first word of the replay agent after INIT (R386): descriptor 0 of chain 0 begins at word 0 of buffer 0,
whose pair holds column 0 in its second word (R147, R314). -/

namespace Sys2Proof.Machine

/-- A chain of at least one row begins with a descriptor of bitplanes 0 to T of row 0 (R190). -/
theorem buildChain_first {c : Config} {t : Nat} {b : BufIdx} {d : Descriptor} (h : (buildChain c t b)[0]? = some d) :
    d.buf = b ∧ d.off = 0 := by
  have hpos : 0 < rows c * descriptorsPerRow t := buildChain_length c t b ▸ (List.getElem?_eq_some_iff.1 h).1
  rw [buildChain_getElem? hpos, Nat.zero_div, Nat.zero_mod, Option.map_eq_some_iff] at h
  obtain ⟨d', hd', rfl⟩ := h
  obtain rfl : planesDescriptor c b 0 0 (t + 1) = d' := Option.some.inj hd'
  have hoff : widx c 0 0 0 = 0 := by simp [widx]
  split
  · exact ⟨rfl, hoff⟩
  · exact ⟨rfl, hoff⟩

/-- The base word of column 0 of row 0, bitplane 0: the address PREV_ROW0, blanked, not latched (R141 to R146). -/
theorem baseWord_first {c : Config} (hw : 2 ≤ c.w) (t duty : Nat) :
    baseWord c t duty 0 0 0 = addrBits c.layout c.prevRow0 ||| signalBit c.layout.oe := by
  have hlast : ¬ 0 = c.w - 1 := by omega
  simp [baseWord, rowAddr, prevRow, oeBit, signalWhen, hlast]

/-- Where INIT leaves a block live that was not, its steps have succeeded with a transition bit (R230, R231). -/
theorem initOutcome_of_init_live {s s' : State} (hdead : s.live = false) (h : exec .init s = .next s')
    (hlive : s'.live = true) :
    ∃ t, initOutcome s.cfg (currentDraw s) = .ok t ∧ s' = startLive t (dropDraw s) := by
  cases hout : initOutcome s.cfg (currentDraw s) with
  | error e =>
    cases (exec_init_of_error hdead hout).symm.trans h
    exact absurd (hlive.symm.trans ((dropDraw_live s).trans hdead)) (by decide)
  | ok t =>
    cases (exec_init_of_ok hdead hout).symm.trans h
    exact ⟨t, rfl, rfl⟩

/-- The word step that follows a successful INIT emits the base word of column 0 of row 0, bitplane 0 (R314, R386). -/
theorem replayStep_startLive {s : State} {t : Nat} (hc : configOK s.cfg = true) (ht : t < 8) :
    ∃ d, replayStep (startLive t s) =
      .next (advance d (emit (baseWord s.cfg t (dutyOf s.cfg s.cfg.brightInit.toNat) 0 0 0) (startLive t s))) := by
  have hconfig := configOK_iff.1 hc
  have hwidth := hconfig.two_le_width
  obtain ⟨d, hd, -⟩ := buildChain_begins hc ht 0 (chainLength_bounds hc ht).1
  obtain ⟨hbuf, hoff⟩ := buildChain_first hd
  have hindex : d.off + (0 ^^^ 1) = widx s.cfg 0 0 (slot 0) := by rw [hoff]; simp [widx, slot]
  refine ⟨d, replayStep_of_word (ds := buildChains s.cfg t)
    (f := blackStore s.cfg t (dutyOf s.cfg s.cfg.brightInit.toNat)) rfl rfl ?_ rfl ?_⟩
  · rw [chainOf_buildChains]
    exact hd
  · rw [fsRead, bufferOf_blackStore]
    exact (congrArg _ hindex).trans (blackBuffer_widx hc t _ hconfig.one_le_rows (by decide) (by omega))

/-- Settles O47: INIT has accepted the configuration, so the word exists, and `W ≥ 2` keeps LAT off column 0. -/
theorem firstWordAfterInit : Obligations.FirstWordAfterInit := by
  intro s s₁ hdead hinit hlive
  obtain ⟨t, hout, rfl⟩ := initOutcome_of_init_live hdead hinit hlive
  obtain ⟨hc, hplan⟩ := initOutcome_eq_ok hout
  have hconfig := configOK_iff.1 hc
  obtain ⟨d, hstep⟩ := replayStep_startLive (s := dropDraw s) (by rwa [dropDraw_cfg])
    (planTransitionBit_eq_some_iff.1 hplan).1
  rw [dropDraw_cfg] at hstep
  obtain ⟨-, hlat, -⟩ := baseWordCarriesAddressBlankingAndLatch s.cfg t (dutyOf s.cfg s.cfg.brightInit.toNat) 0 0 0
    hconfig.layout
  have hwidth := hconfig.two_le_width
  exact ⟨_, _, hstep, by simp, baseWord_first hwidth t _, Bool.eq_false_iff.2 (mt hlat.1 (by omega))⟩

end Sys2Proof.Machine

/-! SUPPORT. The waits (R224, R396, R397): while the completion is down nothing but the replay agent moves, and each of
its steps brings the end of the pass nearer by one word. -/

namespace Sys2Proof.Machine

/-- While a wait holds without its completion, command words are rejected and the wait step is not enabled; only the
replay agent has a step of its own (R110, R224). -/
theorem turnStep_eq_next_of_waiting {turn : Turn} {s s' : State} (hwait : s.phase ≠ .idle) (hdone : s.done = false)
    (hturn : turn ≠ .powerOn) (h : turnStep turn s = .next s') :
    (turn ≠ .replay ∧ (s' = s ∨ s' = raiseFault .concurrent s)) ∨ (turn = .replay ∧ replayStep s = .next s') := by
  cases turn with
  | command w =>
    cases (presentCommand_of_waiting w hwait).symm.trans h
    exact .inl ⟨by simp, .inr rfl⟩
  | wait =>
    cases (waitStep_of_not_enabled (.inr hdone)).symm.trans h
    exact .inl ⟨by simp, .inl rfl⟩
  | replay => exact .inr ⟨rfl, h⟩
  | powerOn => exact absurd rfl hturn

/-- The agent's step keeps the wait, and leaves DONE as it is or ends a pass (R313, R316). -/
theorem replayStep_phase_done {s s' : State} (h : replayStep s = .next s') :
    s'.phase = s.phase ∧ (s'.done = s.done ∨ (s'.done = true ∧ s'.dpos = 0 ∧ s'.wpos = 0)) := by
  rcases replayStep_eq_next h with ⟨-, rfl⟩ | ⟨-, ds, d, f, w, -, -, -, -, rfl⟩
  · exact ⟨rfl, .inl rfl⟩
  · obtain ⟨hframe, hdone⟩ := advance_eq d (emit w s)
    exact ⟨(congrArg State.phase hframe :), hdone.imp_right fun ⟨hraised, hdpos, hwpos, _⟩ => ⟨hraised, hdpos, hwpos⟩⟩

/-- No turn but power-on reset ends a wait whose completion is down. -/
theorem turnStep_phase_of_waiting {turn : Turn} {s s' : State} (hwait : s.phase ≠ .idle) (hdone : s.done = false)
    (hturn : turn ≠ .powerOn) (h : turnStep turn s = .next s') : s'.phase = s.phase := by
  rcases turnStep_eq_next_of_waiting hwait hdone hturn h with ⟨-, rfl | rfl⟩ | ⟨-, hreplay⟩
  · rfl
  · exact raiseFault_phase _ s
  · exact (replayStep_phase_done hreplay).1

/-- Among these turns, run from `s`, there is a replay turn that raises the completion at the end of a pass. -/
def RaisesCompletion (turns : List Turn) (s : State) : Prop :=
  ∃ ts rest u v, turns = ts ++ .replay :: rest ∧ runTurns ts s = .next u ∧ turnStep .replay u = .next v ∧
    u.done = false ∧ v.done = true ∧ v.dpos = 0 ∧ v.wpos = 0

theorem RaisesCompletion.cons {turn : Turn} {turns : List Turn} {s s' : State} (hstep : turnStep turn s = .next s')
    (h : RaisesCompletion turns s') : RaisesCompletion (turn :: turns) s := by
  obtain ⟨ts, rest, u, v, hsplit, hrun, hlast⟩ := h
  exact ⟨turn :: ts, rest, u, v, by rw [hsplit, List.cons_append], runTurns_cons_eq_next.2 ⟨s', hstep, hrun⟩, hlast⟩

/-- A run that ends a wait has raised the completion on the way (R223, R224). -/
theorem raisesCompletion_of_wait_ended {turns : List Turn} {s s' : State} (hpower : noPowerOn turns = true)
    (hwait : s.phase ≠ .idle) (hdone : s.done = false) (hrun : runTurns turns s = .next s') (hidle : s'.phase = .idle) :
    RaisesCompletion turns s := by
  induction turns generalizing s with
  | nil =>
    cases hrun
    exact absurd hidle hwait
  | cons turn turns ih =>
    obtain ⟨u, hstep, hrun⟩ := runTurns_cons_eq_next.1 hrun
    obtain ⟨hturn, hpower⟩ := Bool.and_eq_true_iff.1 hpower
    have hturn := of_decide_eq_true hturn
    have hwait' : u.phase ≠ .idle := turnStep_phase_of_waiting hwait hdone hturn hstep ▸ hwait
    have goesOn (hdown : u.done = false) : RaisesCompletion (turn :: turns) s :=
      (ih hpower hwait' hdown hrun).cons hstep
    rcases turnStep_eq_next_of_waiting hwait hdone hturn hstep with ⟨-, rfl | rfl⟩ | ⟨rfl, hreplay⟩
    · exact goesOn hdone
    · exact goesOn hdone
    · rcases (replayStep_phase_done hreplay).2 with hkept | hraised
      · exact goesOn (hkept.trans hdone)
      · exact ⟨[], turns, s, u, rfl, rfl, hreplay, hdone, hraised⟩

/-- Settles O33: UPDATE.B's flip clears DONE, so that its wait cannot end on an earlier completion. -/
theorem blockingUpdateReturnsAfterAPassEnd : Obligations.BlockingUpdateReturnsAfterAPassEnd := by
  intro s s₁ s₂ turns hlive hexec hpower hrun hidle
  cases ((updateFlipsToTheWriteTarget s hlive).2).symm.trans hexec
  exact raisesCompletion_of_wait_ended hpower (by simp) rfl hrun hidle

/-- The words that a chain has from word `n` of descriptor `k` on. -/
def wordsFrom (chain : List Descriptor) (k n : Nat) : Nat := ((chain.drop k).map fun d => d.len / 2).sum - n

/-- The words of descriptor `k` less the `n` before the position, and those of the descriptors after it. -/
theorem wordsFrom_eq {chain : List Descriptor} {k : Nat} {d : Descriptor} (hd : chain[k]? = some d) (n : Nat) :
    wordsFrom chain k n = d.len / 2 + wordsFrom chain (k + 1) 0 - n := by
  obtain ⟨hlt, rfl⟩ := List.getElem?_eq_some_iff.1 hd
  rw [wordsFrom, wordsFrom, List.drop_eq_getElem_cons hlt, List.map_cons, List.sum_cons, Nat.sub_zero]

theorem wordsFrom_le (chain : List Descriptor) (k n : Nat) :
    wordsFrom chain k n ≤ (chain.map fun d => d.len / 2).sum := by
  conv_rhs => rw [← List.take_append_drop k chain, List.map_append, List.sum_append]
  rw [wordsFrom]
  omega

/-- The words left of the pass at the replay position (R313). -/
def wordsLeft (s : State) : Nat := wordsFrom (buildChain s.cfg s.t.toNat s.cur) s.dpos.toNat s.wpos.toNat

theorem State.LiveInv.wordsLeft_pos {s : State} (h : s.LiveInv) : 0 < wordsLeft s := by
  obtain ⟨d, hd, hw⟩ := h.position
  rw [wordsLeft, wordsFrom_eq hd]
  omega

/-- No more words are left than a whole pass has (R319). -/
theorem State.LiveInv.wordsLeft_le_passLength {s : State} (h : s.LiveInv) : wordsLeft s ≤ passLength s := by
  have hpass := flatMap_descriptorWords_buildChain (configOK_iff.1 h.config).width_even s.cur
  have hchain : ((buildChain s.cfg s.t.toNat s.cur).map fun d => d.len / 2).sum = passLength s := by
    rw [← passWords_length s s.cur, ← hpass, List.length_flatMap]
    simp only [descriptorWords_length]
  exact (wordsFrom_le ..).trans_eq hchain

/-- One word emitted is one word less to the end of the pass, which raises the completion (R313, R316). -/
theorem wordsLeft_advance {s : State} (h : s.LiveInv) {d : Descriptor}
    (hd : (buildChain s.cfg s.t.toNat s.cur)[s.dpos.toNat]? = some d) (hw : s.wpos.toNat < d.len / 2) :
    (advance d s).done = true ∨ wordsLeft (advance d s) < wordsLeft s := by
  have hdpos := (List.getElem?_eq_some_iff.1 hd).1
  have hlength := (chainLength_bounds h.config s.t.isLt).2
  have hwords := (descriptorWords_bounds h.config s.t.isLt hd).2
  rw [buildChain_length] at hdpos
  have hleft : wordsLeft s = _ := wordsFrom_eq hd _
  by_cases hlast : s.wpos.toNat + 1 = d.len / 2
  · cases heof : d.eof with
    | true => exact .inl (by rw [advance_of_chain_end hlast heof, passEnd_done])
    | false =>
      right
      have hnext : wordsLeft { s with dpos := s.dpos + 1, wpos := 0 } =
          wordsFrom (buildChain s.cfg s.t.toNat s.cur) (s.dpos.toNat + 1) 0 :=
        congrArg (wordsFrom _ · 0) (toNat_add_one_of_lt (by omega))
      rw [advance_of_descriptor_end hlast heof, hnext, hleft]
      omega
  · right
    have hnext : wordsLeft { s with wpos := s.wpos + 1 } = _ := wordsFrom_eq hd _
    rw [advance_of_inside hlast, hnext, hleft, toNat_add_one_of_lt (by omega)]
    omega

/-- A replay turn of a live block ends the pass or brings its end nearer. -/
theorem replayStep_wordsLeft {s s' : State} (h : s.LiveInv) (hstep : replayStep s = .next s') :
    s'.done = true ∨ wordsLeft s' < wordsLeft s := by
  obtain ⟨d, w, hd, hw, hstep'⟩ := replayStep_of_liveInv h
  cases hstep'.symm.trans hstep
  exact wordsLeft_advance (s := emit w s) { h with } hd hw

/-- What a turn does to a wait whose completion is down: the wait holds on, and unless the completion is raised no word
is added to those left of the pass, and a replay turn takes one away. -/
structure BringsNearer (turn : Turn) (s s' : State) : Prop where
  inv : s'.Inv
  phase : s'.phase = s.phase
  words : s'.done = true ∨ (wordsLeft s' ≤ wordsLeft s ∧ (turn = .replay → wordsLeft s' < wordsLeft s))

theorem turnStep_bringsNearer {turn : Turn} {s : State} (h : s.Inv) (hwait : s.phase ≠ .idle) (hdone : s.done = false)
    (hturn : turn ≠ .powerOn) : ∃ s', turnStep turn s = .next s' ∧ BringsNearer turn s s' := by
  obtain ⟨s', hstep, hinv⟩ := turnStep_answersInv h turn
  refine ⟨s', hstep, hinv, turnStep_phase_of_waiting hwait hdone hturn hstep, ?_⟩
  rcases turnStep_eq_next_of_waiting hwait hdone hturn hstep with ⟨hother, rfl | rfl⟩ | ⟨-, hreplay⟩
  · exact .inr ⟨le_rfl, fun hreplay => absurd hreplay hother⟩
  · exact .inr ⟨le_rfl, fun hreplay => absurd hreplay hother⟩
  · exact (replayStep_wordsLeft (h.whenLive (h.live_of_waiting hwait)) hreplay).imp_right fun hless =>
      ⟨hless.le, fun _ => hless⟩

/-- A wait's completion is raised within as many replay turns as words are left of the pass. -/
theorem replaysTo_completion {k : Nat} {s : State} (h : s.Inv) (hwait : s.phase ≠ .idle) (hk : wordsLeft s ≤ k) :
    ∃ n s', n ≤ k ∧ ReplaysTo n s s' ∧ s'.done = true ∧ s'.phase = s.phase := by
  induction k generalizing s with
  | zero =>
    have hpos := (h.whenLive (h.live_of_waiting hwait)).wordsLeft_pos
    omega
  | succ k ih =>
    cases hdone : s.done with
    | true => exact ⟨0, s, by omega, .refl s, hdone, rfl⟩
    | false =>
      obtain ⟨u, hstep, hinv, hphase, hwords⟩ := turnStep_bringsNearer (turn := .replay) h hwait hdone (by simp)
      rcases hwords with hraised | ⟨-, hless⟩
      · exact ⟨1, u, by omega, .of_step hstep, hraised, hphase⟩
      · have hless := hless rfl
        obtain ⟨n, s', hn, hrun, hdone', hphase'⟩ := ih hinv (hphase ▸ hwait) (by omega)
        exact ⟨1 + n, s', by omega, (ReplaysTo.of_step hstep).trans hrun, hdone', hphase'.trans hphase⟩

/-- Settles O34: no more words are left of the pass than it has. -/
theorem everyWaitEndsWithinAPass : Obligations.EveryWaitEndsWithinAPass := fun _ h hwait =>
  replaysTo_completion h hwait (h.whenLive (h.live_of_waiting hwait)).wordsLeft_le_passLength

/-- Some number of the endless turns lead from `s` to a state whose completion is up, with the wait as in `s`. -/
def ComesToBeEnabled (turns : Nat → Turn) (s : State) : Prop :=
  ∃ n s', runTurns ((List.range n).map turns) s = .next s' ∧ s'.done = true ∧ s'.phase = s.phase

theorem ComesToBeEnabled.of_done {turns : Nat → Turn} {s : State} (h : s.done = true) : ComesToBeEnabled turns s :=
  ⟨0, s, rfl, h, rfl⟩

theorem ComesToBeEnabled.of_first_turn {turns : Nat → Turn} {s u : State} (hstep : turnStep (turns 0) s = .next u)
    (hphase : u.phase = s.phase) (h : ComesToBeEnabled (fun n => turns (n + 1)) u) : ComesToBeEnabled turns s := by
  obtain ⟨n, s', hrun, hdone, hphase'⟩ := h
  refine ⟨n + 1, s', ?_, hdone, hphase'.trans hphase⟩
  rw [List.range_succ_eq_map, List.map_cons, List.map_map]
  exact runTurns_cons_eq_next.2 ⟨u, hstep, hrun⟩

theorem weaklyFair.tail {turns : Nat → Turn} (h : weaklyFair turns) : weaklyFair fun n => turns (n + 1) := by
  intro n
  obtain ⟨m, hm, hreplay⟩ := h (n + 1)
  obtain ⟨k, rfl⟩ : ∃ k, m = k + 1 := ⟨m - 1, by omega⟩
  exact ⟨k, by omega, hreplay⟩

/-- The completion comes, if it does after every outcome that the first turn may have short of raising it. -/
theorem comesToBeEnabled_of_tail {s : State} {turns : Nat → Turn} (h : s.Inv) (hwait : s.phase ≠ .idle)
    (hturn : turns 0 ≠ .powerOn)
    (htail : ∀ u, u.Inv → u.phase ≠ .idle → wordsLeft u ≤ wordsLeft s →
      (turns 0 = .replay → wordsLeft u < wordsLeft s) → ComesToBeEnabled (fun n => turns (n + 1)) u) :
    ComesToBeEnabled turns s := by
  cases hdone : s.done with
  | true => exact .of_done hdone
  | false =>
    obtain ⟨u, hstep, hinv, hphase, hwords⟩ := turnStep_bringsNearer h hwait hdone hturn
    refine .of_first_turn hstep hphase ?_
    rcases hwords with hraised | ⟨hle, hless⟩
    · exact .of_done hraised
    · exact htail u hinv (hphase ▸ hwait) hle hless

/-- The completion comes by induction on the words left of the pass, and between two replay turns on the number of turns
to the next one, at which a word is emitted (R396, R397). -/
theorem comesToBeEnabled_of_fair {k : Nat} {s : State} {turns : Nat → Turn} (h : s.Inv) (hwait : s.phase ≠ .idle)
    (hfair : weaklyFair turns) (hpower : ∀ n, turns n ≠ .powerOn) (hk : wordsLeft s ≤ k) : ComesToBeEnabled turns s := by
  induction k generalizing s turns with
  | zero =>
    have hpos := (h.whenLive (h.live_of_waiting hwait)).wordsLeft_pos
    omega
  | succ k ihWords =>
    obtain ⟨m, -, hreplay⟩ := hfair 0
    induction m generalizing s turns with
    | zero =>
      refine comesToBeEnabled_of_tail h hwait (hpower 0) fun u hinv hwait' _ hless => ?_
      have hless := hless hreplay
      exact ihWords hinv hwait' hfair.tail (fun n => hpower (n + 1)) (by omega)
    | succ m ihTurns =>
      exact comesToBeEnabled_of_tail h hwait (hpower 0) fun u hinv hwait' hle _ =>
        ihTurns hinv hwait' hfair.tail (fun n => hpower (n + 1)) (hle.trans hk) hreplay

/-- Settles O35: from any number of words left of the pass. -/
theorem fairReplayEnablesEveryWait : Obligations.FairReplayEnablesEveryWait := fun _ _ h hwait hfair hpower =>
  comesToBeEnabled_of_fair h hwait hfair hpower le_rfl

end Sys2Proof.Machine
